-- ==== Sys2Proof/Word.lean ====
section
/-! DEFINITION. The word, the byte, the 64-byte block and the group of five words: the shapes of data that
every other file uses (00_scope.md R11, R12; 10_state.md R20, R28, R40). -/

namespace Sys2Proof

/-- A word: 32 bits, bit 0 least significant (R11). -/
abbrev Word := BitVec 32

/-- A byte: 8 bits (R12). -/
abbrev Byte := BitVec 8

/-- A SHA-1 and HMAC block: exactly 64 bytes, index 0 first (R6 `BLOCK_BYTES`, R40 `KBUF`). -/
abbrev Block := Vector Byte 64

/-- Five words, in order: a SHA-1 chaining value `(H0, …, H4)` (R116), the hidden `KH` (R40), and the digest
registers `DIGEST0` to `DIGEST4` (R28). -/
structure Words5 where
  w0 : Word
  w1 : Word
  w2 : Word
  w3 : Word
  w4 : Word
  deriving DecidableEq, Repr

/-- `(0,0,0,0,0)`. -/
def Words5.zero : Words5 := ⟨0, 0, 0, 0, 0⟩

/-- `0^64`, the block of zero bytes. -/
def zeroBlock : Block := Vector.replicate 64 0

end Sys2Proof
end

