-- ==== Sys2Proof/Config.lean ====
section
/-! DEFINITION. The constants of the hardware: 00_scope.md R5 (fixed by the document) and R6 (fixed by the
spec). Three parameters have no value here. `LAT` (R6, R200) is the schedule of `Turn`s that `State` holds
(log entry 3); `BASE` and `IRQ_LINE` are the platform's and no rule depends on them (log entry 9). -/

namespace Sys2Proof.Config

/-- `STEP_SECONDS` (R5), used by the host driver only. -/
abbrev stepSeconds : Nat := 30

/-- `CTR_BITS` (R5): the width of the counter. -/
abbrev ctrBits : Nat := 64

/-- `OFFSET_MASK` (R5, R136). -/
abbrev offsetMask : Byte := 0x0F

/-- `SIGN_MASK` (R5, R139). -/
abbrev signMask : Word := 0x7FFFFFFF

/-- `MODULUS` (R5, R140). -/
abbrev modulus : Word := 1000000

/-- `BLOCK_BYTES` (R6). -/
abbrev blockBytes : Nat := 64

/-- Bytes moved by one access: `WORD_BITS` of R6 in bytes (R52). -/
abbrev accessBytes : Nat := 4

/-- Bytes of the register window: `ADDR_WORDS` of R6 words (R50). -/
abbrev windowBytes : Nat := 128

/-- The longest key, `2^KLEN_BITS - 1` bytes (R6), as the value of `KLEN` that admits no further byte (R98). -/
abbrev klenLimit : Word := 0xFFFFFFFF

end Sys2Proof.Config
end

