-- ==== Sys2Proof/Syntax.lean ====
section
/-! DEFINITION. What the outside world can say to the core: the instructions of `spec/opcode_table.json`, the
registers by name (10_state.md R20), one access at the port (20_memory.md R51, R52), and the turns of the
schedule (00_scope.md R7, R8). -/

namespace Sys2Proof

/-- The eight rows of the opcode table. The seven commands have no operand (30_encoding.md R70, R73). `KEYIN`
is the data word that acts as an instruction; its two fields are those of format `K` (R77): the ignored bits
31:8 and the key byte in bits 7:0. -/
inductive Instr where
  | nop
  | clr
  | keystart
  | keyend
  | hmac
  | trunc
  | gen
  | keyin (ign : BitVec 24) (byte : Byte)
  deriving DecidableEq, Repr

/-- The 32 registers of the window: seventeen defined ones, and fifteen reserved words 0x44 to 0x7C (R20). -/
inductive Reg where
  | cmd
  | status
  | evt
  | ie
  | keyin
  | klen
  | ctrHi
  | ctrLo
  | digest (n : Fin 5)
  | offset
  | bin
  | code
  | bcd
  | reserved (k : Fin 15)
  deriving DecidableEq, Repr

/-- Where an access goes and how wide it is: a byte offset from `BASE` and a number of bytes. Only some of
these exist at the port (R52): see `Access.wf`. -/
structure Access where
  offset : Nat
  bytes  : Nat
  deriving DecidableEq, Repr

/-- One turn of the schedule: which of the transitions of R8 is to happen next.
`poll n` is the host's `wait` (30_encoding.md R81), a row of reads of `STATUS` that goes on until `BUSY` reads
0. On a busy core `n + 1` reads find it busy and then the engine steps: between two reads the engine may or may
not step, and every `n` is a run. A run in which the engine steps before the first read has an `engine` turn in
front of the `poll` (log entry 6). -/
inductive Turn where
  | write (a : Access) (v : Word)
  | read (a : Access)
  | engine
  | reset
  | poll (n : Nat)
  deriving DecidableEq, Repr

/-- Why a written word is not an instruction. -/
inductive DecodeError where
  /-- The register is `CMD` and the word is none of the seven commands (R74). -/
  | illegalCommand
  /-- The register is neither `CMD` nor `KEYIN`: the write is a plain register write (R56). -/
  | plainRegister
  deriving DecidableEq, Repr

end Sys2Proof
end

