-- ==== Sys2Proof/WellFormed.lean ====
section
/-! DEFINITION. Which accesses exist at the port: whole aligned words inside the window (20_memory.md R50, R52).
An `Instr` needs no check of its own: its two fields have exactly the widths of format `K` (24 and 8 bits), so
every term is an instruction. -/

namespace Sys2Proof

/-- The access is 32 bits wide and its byte offset is that of a word (R52). -/
def Access.wholeWord (a : Access) : Bool :=
  a.bytes == Config.accessBytes && a.offset % Config.accessBytes == 0

/-- The access lies in the 32 words of the core (R50). -/
def Access.inWindow (a : Access) : Bool := decide (a.offset < Config.windowBytes)

/-- The port can carry the access. -/
def Access.wf (a : Access) : Bool := a.wholeWord && a.inWindow

/-- Every access of the turn can be carried by the port. -/
def Turn.wf : Turn → Bool
  | .write a _ => a.wf
  | .read a    => a.wf
  | .engine    => true
  | .reset     => true
  | .poll _    => true

end Sys2Proof
end

