-- ==== Sys2Proof/Decode.lean ====
section
/-! DEFINITION. The register map (10_state.md R20), decoding and encoding (30_encoding.md R70 to R77). -/

namespace Sys2Proof

/-- The word index `addr[6:2]` of a register (R20, R50). -/
def Reg.index : Reg → BitVec 5
  | .cmd        => 0
  | .status     => 1
  | .evt        => 2
  | .ie         => 3
  | .keyin      => 4
  | .klen       => 5
  | .ctrHi      => 6
  | .ctrLo      => 7
  | .digest n   => BitVec.ofNat 5 (8 + n.val)
  | .offset     => 13
  | .bin        => 14
  | .code       => 15
  | .bcd        => 16
  | .reserved k => BitVec.ofNat 5 (17 + k.val)

/-- The register at a word index: total, since every word of the window is defined or reserved (R20). -/
def Reg.ofIndex (i : BitVec 5) : Reg :=
  match i.toNat with
  | 0  => .cmd
  | 1  => .status
  | 2  => .evt
  | 3  => .ie
  | 4  => .keyin
  | 5  => .klen
  | 6  => .ctrHi
  | 7  => .ctrLo
  | 8  => .digest 0
  | 9  => .digest 1
  | 10 => .digest 2
  | 11 => .digest 3
  | 12 => .digest 4
  | 13 => .offset
  | 14 => .bin
  | 15 => .code
  | 16 => .bcd
  | n  => .reserved (Fin.ofNat 15 (n - 17))

/-- The access that moves a whole register: byte offset `4 · addr[6:2]`, four bytes (R50, R52). -/
def Reg.access (r : Reg) : Access := ⟨4 * r.index.toNat, 4⟩

/-- The register an access goes to. -/
def Access.reg (a : Access) : Reg := Reg.ofIndex (BitVec.ofNat 5 (a.offset / 4))

/-- Field `OP` of a command word, bits 7:0 (R70). -/
def opField (w : Word) : BitVec 8 := w.extractLsb' 0 8

/-- Field `RSV` of a command word, bits 31:8 (R70). -/
def rsvField (w : Word) : BitVec 24 := w.extractLsb' 8 24

/-- The opcode map of R71, for a word whose `RSV` is zero; any other word is illegal (R74). -/
def decodeCommand (w : Word) : Except DecodeError Instr :=
  if rsvField w = 0 then
    match (opField w).toNat with
    | 0 => .ok .nop
    | 1 => .ok .clr
    | 2 => .ok .keystart
    | 3 => .ok .keyend
    | 4 => .ok .hmac
    | 5 => .ok .trunc
    | 6 => .ok .gen
    | _ => .error .illegalCommand
  else .error .illegalCommand

/-- Decoding of a word written to a register: a command word at `CMD` (R72), any word at `KEYIN` (R77). -/
def decode (r : Reg) (w : Word) : Except DecodeError Instr :=
  match r with
  | .cmd   => decodeCommand w
  | .keyin => .ok (.keyin (w.extractLsb' 8 24) (w.extractLsb' 0 8))
  | _      => .error .plainRegister

/-- The register and the word that carry an instruction (R71, R77). -/
def encode : Instr → Reg × Word
  | .nop          => (.cmd, 0x00000000)
  | .clr          => (.cmd, 0x00000001)
  | .keystart     => (.cmd, 0x00000002)
  | .keyend       => (.cmd, 0x00000003)
  | .hmac         => (.cmd, 0x00000004)
  | .trunc        => (.cmd, 0x00000005)
  | .gen          => (.cmd, 0x00000006)
  | .keyin ign b  => (.keyin, ign ++ b)

/-- Bits 31:0 of an instruction as the opcode table numbers them: the written word. -/
def tableData (nbits w : Nat) : Word := BitVec.ofNat 32 (w % 2 ^ nbits)

/-- Bits 32 and up of an instruction as the opcode table numbers them: the word index of the register it is
written to. The table's rows give no such bits, and bits a row does not give are 0, which is `CMD`; a write to
`KEYIN` is the same 32 bits with 4 above them (log entry 7). -/
def tableIndex (nbits w : Nat) : Nat := w % 2 ^ nbits / 2 ^ 32

/-- What `decode` reads from an instruction whose bits are `w`, numbered as the opcode table numbers them. -/
def decodeTableWord (nbits w : Nat) : Option Instr :=
  if tableIndex nbits w < 32 then
    (decode (Reg.ofIndex (BitVec.ofNat 5 (tableIndex nbits w))) (tableData nbits w)).toOption
  else none

end Sys2Proof
end

