-- ==== Sys2Proof/Machine/State.lean ====
section
/-! DEFINITION. The state of the machine (10_state.md R20 to R46), its reset value, and the reasons a step can
stop. `CoreState` is the state the spec gives the hardware; `State` puts beside it the schedule of turns and the
values the port has returned, which stand for the host (log entries 1 and 2). -/

namespace Sys2Proof.Machine

/-- The key state `KST` of R22; the encoding 3 never occurs, so it has no constructor. -/
inductive KeyState where
  /-- 0: no key material held -/
  | nokey
  /-- 1: key bytes are being entered -/
  | keyload
  /-- 2: `K0` is held and an HMAC or GEN command may use it -/
  | keyready
  deriving DecidableEq, Repr

/-- The engine command in progress, the content of `PEND` while it is not 0 (R40). -/
inductive EngineCmd where
  /-- opcode 3 -/
  | keyend
  /-- opcode 4 -/
  | hmac
  /-- opcode 5 -/
  | trunc
  /-- opcode 6 -/
  | gen
  deriving DecidableEq, Repr

/-- The six events of R23; the bit number is in `Event.code`. -/
inductive Event where
  | done
  | invkey
  | illcmd
  | seq
  | busywr
  | keyovf
  deriving DecidableEq, Repr

/-- Everything the spec calls state: the registers of R20 that have storage, the flags of R42, the hidden
state of R40. Registers are kept as the 32-bit words the host reads; R45 says what their upper bits are. -/
structure CoreState where
  /-- `STATUS.BUSY` (R22) -/
  busy      : Bool
  /-- `STATUS.KST` (R22, R43) -/
  kst       : KeyState
  /-- `STATUS.DIGVALID` (R22) -/
  digvalid  : Bool
  /-- `STATUS.CODEVALID` (R22) -/
  codevalid : Bool
  /-- `EVT`, the sticky events (R23) -/
  evt       : Word
  /-- `IE`, the interrupt enables (R24) -/
  ie        : Word
  /-- `KLEN`, the key bytes accepted (R26) -/
  klen      : Word
  /-- `CTR_HI`, counter bits 63 to 32 (R27) -/
  ctrHi     : Word
  /-- `CTR_LO`, counter bits 31 to 0 (R27) -/
  ctrLo     : Word
  /-- `DIGEST0` to `DIGEST4` (R28) -/
  digest    : Words5
  /-- `OFFSET` (R29) -/
  offset    : Word
  /-- `BIN` (R30) -/
  bin       : Word
  /-- `CODE` (R31) -/
  code      : Word
  /-- `BCD` (R32) -/
  bcd       : Word
  /-- `KBUF`, hidden (R40) -/
  kbuf      : Block
  /-- `KH`, hidden (R40) -/
  kh        : Words5
  /-- `PEND`, hidden (R40): `none` is the value 0 -/
  pend      : Option EngineCmd
  deriving DecidableEq, Repr

/-- The machine: the core, what is to happen next, and what the host has read.
The two last fields are the model's own and stand for the host. -/
structure State where
  core  : CoreState
  /-- the turns to come, the next one first (log entry 1) -/
  turns : List Turn
  /-- the values that completed reads returned, the last one first (log entry 2) -/
  reads : List Word
  deriving DecidableEq, Repr

/-- Why the machine can stop with a fault. -/
inductive Fault where
  /-- Raised by the engine's step when `BUSY = 1` and `PEND = 0`. R60 gives no effect for it and R45 item 1
  says no run reaches it. Safe: the model stops where the spec says nothing (log entry 5). -/
  | noPendingCommand
  deriving DecidableEq, Repr

/-- Why the model can refuse a turn. -/
inductive Refusal where
  /-- Raised by an arm of `exec` whose instruction has no meaning yet; no arm raises it. Safe. -/
  | notModelled (mnemonic : String)
  /-- Raised by an access that is not 32 bits wide or not aligned: it cannot be expressed at the port and the
  model refuses it (R52). Safe. -/
  | notWordAccess
  /-- Raised by an access beyond the 32 words of the core: nothing there belongs to the core (R50). Safe. -/
  | outsideWindow
  deriving DecidableEq, Repr

/-- `ResetState` (R46): every register with storage and every piece of hidden state is zero. -/
def CoreState.reset : CoreState where
  busy      := false
  kst       := .nokey
  digvalid  := false
  codevalid := false
  evt       := 0
  ie        := 0
  klen      := 0
  ctrHi     := 0
  ctrLo     := 0
  digest    := Words5.zero
  offset    := 0
  bin       := 0
  code      := 0
  bcd       := 0
  kbuf      := zeroBlock
  kh        := Words5.zero
  pend      := none

/-- The machine right after reset: the core in `ResetState`, no turn scheduled, nothing read. -/
def State.reset : State := ⟨CoreState.reset, [], []⟩

end Sys2Proof.Machine
end

