-- ==== Sys2Proof/Machine/Flags.lean ====
section
/-! DEFINITION. The flags: the `STATUS` word, the event bits, the interrupt output (10_state.md R22 to R24, R42;
60_exceptions.md R170 to R176). There are no arithmetic condition codes (R42). -/

namespace Sys2Proof.Machine

/-- The two-bit encoding of `KST` (R22). -/
def KeyState.code : KeyState → BitVec 2
  | .nokey    => 0
  | .keyload  => 1
  | .keyready => 2

/-- The opcode that `PEND` holds for an engine command (R40). -/
def EngineCmd.opcode : EngineCmd → BitVec 3
  | .keyend => 3
  | .hmac   => 4
  | .trunc  => 5
  | .gen    => 6

/-- `PEND` as its three bits (R40). -/
def pendField (c : CoreState) : BitVec 3 :=
  match c.pend with
  | none   => 0
  | some p => p.opcode

/-- The code of an event: its bit number in `EVT` (R23). -/
def Event.code : Event → Nat
  | .done   => 0
  | .invkey => 1
  | .illcmd => 2
  | .seq    => 3
  | .busywr => 4
  | .keyovf => 5

/-- The `EVT` word with only this event's bit set. -/
def Event.mask (e : Event) : Word := 1#32 <<< e.code

/-- Bits 5:0 of a word, zero-extended: the implemented bits of `EVT` and `IE` (R23, R24). -/
def sixBits (v : Word) : Word := (v.extractLsb' 0 6).setWidth 32

/-- `EVT & ~zext_32(v[5:0])`: write one to clear (R88). -/
def evtCleared (evt v : Word) : Word := evt &&& ~~~ sixBits v

/-- The word a read of `STATUS` returns: `zext_32(CODEVALID ‖ DIGVALID ‖ KST[1:0] ‖ BUSY)` (R55). -/
def statusWord (c : CoreState) : Word :=
  (BitVec.ofBool c.codevalid ++ BitVec.ofBool c.digvalid ++ c.kst.code ++ BitVec.ofBool c.busy).setWidth 32

/-- The interrupt output: `(EVT[5:0] & IE[5:0]) ≠ 0` (R176), a function of the state. -/
def irq (c : CoreState) : Bool := c.evt.extractLsb' 0 6 &&& c.ie.extractLsb' 0 6 != 0#6

end Sys2Proof.Machine
end

