-- ==== Sys2Proof/Machine/Ops.lean ====
section
/-! DEFINITION. The operations the meanings share: byte order (20_memory.md R54), raising and dismissing an
event (60_exceptions.md R178, R179), the guard of a busy core (20_memory.md R56), the clearing operations
(10_state.md R41), starting and finishing an engine command (R43, R60), and the read of a register (R55). -/

namespace Sys2Proof.Machine

/-! ### Bytes, words and blocks -/

/-- `BE32` of four bytes: the first byte is the most significant (R12). -/
def be32 (b0 b1 b2 b3 : Byte) : Word := b0 ++ b1 ++ b2 ++ b3

/-- `BE32(s[i .. i+4))` (R12). -/
def be32At (s : List Byte) (i : Nat) : Word :=
  be32 (s.getD i 0) (s.getD (i + 1) 0) (s.getD (i + 2) 0) (s.getD (i + 3) 0)

/-- `bytes32(w)`: four bytes, most significant first (R12). -/
def bytes32 (w : Word) : List Byte :=
  [w.extractLsb' 24 8, w.extractLsb' 16 8, w.extractLsb' 8 8, w.extractLsb' 0 8]

/-- `bytes64(n)`: eight bytes, most significant first (R12). -/
def bytes64 (n : BitVec 64) : List Byte :=
  bytes32 (n.extractLsb' 32 32) ++ bytes32 (n.extractLsb' 0 32)

/-- The 20 bytes of five words, `H0` first (R120). -/
def bytesOfWords (h : Words5) : List Byte :=
  bytes32 h.w0 ++ bytes32 h.w1 ++ bytes32 h.w2 ++ bytes32 h.w3 ++ bytes32 h.w4

/-- The first 64 bytes of a sequence, extended with zero bytes if it is shorter. -/
def blockOf (s : List Byte) : Block :=
  ⟨((s ++ List.replicate 64 0).take 64).toArray, by simp⟩

/-- `B ^ p`, where `p` stands for 64 equal bytes (R121). -/
def xorBlock (b : Block) (p : Byte) : Block := b.map (· ^^^ p)

/-- `DIGESTn` among the five digest registers (R28). -/
def Words5.get (h : Words5) (n : Fin 5) : Word :=
  match n with
  | 0 => h.w0
  | 1 => h.w1
  | 2 => h.w2
  | 3 => h.w3
  | 4 => h.w4

/-- The five words with the `n`-th replaced. -/
def Words5.set (h : Words5) (n : Fin 5) (v : Word) : Words5 :=
  match n with
  | 0 => { h with w0 := v }
  | 1 => { h with w1 := v }
  | 2 => { h with w2 := v }
  | 3 => { h with w3 := v }
  | 4 => { h with w4 := v }

/-! ### Events -/

/-- Taking an event, the one thing this hardware has in place of an exception entry (R178): its bit of `EVT`
becomes 1, nothing is saved, no control is transferred, and nothing else changes. -/
def raise (e : Event) (c : CoreState) : CoreState := { c with evt := c.evt ||| e.mask }

/-- Dismissing events, which stands in place of a return: the host writes 1 to their bits (R88, R179). -/
def dismiss (v : Word) (c : CoreState) : CoreState := { c with evt := evtCleared c.evt v }

/-! ### Clearing (R41, and the zeroing of the key in R98, R101, R126) -/

/-- `ClearCode` (R41). -/
def clearCode (c : CoreState) : CoreState :=
  { c with offset := 0, bin := 0, code := 0, bcd := 0, codevalid := false }

/-- `ClearDigest` (R41). -/
def clearDigest (c : CoreState) : CoreState := { c with digest := Words5.zero, digvalid := false }

/-- `KBUF <- 0^64; KH <- (0,0,0,0,0); KLEN <- 0; KST <- NOKEY` (R98, R101, R126). -/
def zeroiseKey (c : CoreState) : CoreState :=
  { c with kbuf := zeroBlock, kh := Words5.zero, klen := 0, kst := .nokey }

/-! ### The engine -/

/-- `BUSY <- 1; PEND <- op` (R43). -/
def startEngine (p : EngineCmd) (c : CoreState) : CoreState := { c with busy := true, pend := some p }

/-- `BUSY <- 0; PEND <- 0; EVT.DONE <- 1`, the end of every engine step (R60). -/
def finishEngine (c : CoreState) : CoreState :=
  raise .done { c with busy := false, pend := none }

/-! ### Accesses -/

/-- A write to a guarded register: dropped with `BUSYWR` while `BUSY = 1`, performed otherwise (R56, R174). -/
def guarded (f : CoreState → CoreState) (c : CoreState) : CoreState :=
  if c.busy then raise .busywr c else f c

/-- `RegRead(off)` (R55). -/
def regRead (r : Reg) (c : CoreState) : Word :=
  match r with
  | .cmd        => 0
  | .status     => statusWord c
  | .evt        => c.evt
  | .ie         => c.ie
  | .keyin      => 0
  | .klen       => c.klen
  | .ctrHi      => c.ctrHi
  | .ctrLo      => c.ctrLo
  | .digest n   => Words5.get c.digest n
  | .offset     => c.offset
  | .bin        => c.bin
  | .code       => c.code
  | .bcd        => c.bcd
  | .reserved _ => 0

/-- The machine with its core changed; the schedule and the values read stay. -/
def State.mapCore (s : State) (f : CoreState → CoreState) : State := { s with core := f s.core }

end Sys2Proof.Machine
end

