-- ==== Sys2Proof/Machine/Operands.lean ====
section
/-! DEFINITION. The operands. No command has one in its word (30_encoding.md R73): each reads fixed registers.
Here are the values so read, and how far the key bytes have got (41_key.md R98, R99). -/

namespace Sys2Proof.Machine

/-- The HMAC message `M = bytes32(CTR_HI) ‖ bytes32(CTR_LO)` (42_hmac_sha1.md R124). -/
def counterMessage (c : CoreState) : List Byte := bytes32 c.ctrHi ++ bytes32 c.ctrLo

/-- `digest[0..20)`, as the registers `DIGEST0` to `DIGEST4` hold it (10_state.md R28). -/
def digestBytes (d : Words5) : List Byte := bytesOfWords d

/-- `D = DIGEST0 ‖ … ‖ DIGEST4` (R28). -/
def digestNumber (d : Words5) : BitVec 160 := d.w0 ++ d.w1 ++ d.w2 ++ d.w3 ++ d.w4

/-- `r` of R99: how many of the `n` key bytes are in `KBUF`. -/
def tailLength (n : Nat) : Nat :=
  if n ≤ Config.blockBytes then n else (n - 1) % Config.blockBytes + 1

/-- `q` of R99: how many blocks of the key have gone into `KH`. -/
def headBlocks (n : Nat) : Nat :=
  if n ≤ Config.blockBytes then 0 else (n - 1) / Config.blockBytes

/-- `KBUF[0 .. r)` for a key of `n` bytes (R104). -/
def keyTail (c : CoreState) : List Byte := c.kbuf.toList.take (tailLength c.klen.toNat)

end Sys2Proof.Machine
end

