-- ==== Sys2Proof/Machine/Control.lean ====
section
/-! DEFINITION. `NOP`, `CLR`, and the register writes that are not instructions (40_control.md R85 to R91; 10_state.md
R33, R34). -/

namespace Sys2Proof.Machine

/-! ### Commands -/

/-- `Nop` (R85). -/
def nopCommand (c : CoreState) : CoreState := c

/-- The `NOP` word written to `CMD` (R85). -/
def execNop (s : State) : Host.Outcome State Fault Refusal := .next (s.mapCore (guarded nopCommand))

/-- `Clr`: the whole core goes to `ResetState` (R86). -/
def clrCommand (_ : CoreState) : CoreState := CoreState.reset

/-- The `CLR` word written to `CMD` (R86). -/
def execClr (s : State) : Host.Outcome State Fault Refusal := .next (s.mapCore (guarded clrCommand))

/-! ### Plain register writes -/

/-- `IE <- zext_32(v[5:0])` (R89). -/
def writeIe (v : Word) (c : CoreState) : CoreState := { c with ie := sixBits v }

/-- `CTR_HI <- v` (R90). -/
def writeCtrHi (v : Word) (c : CoreState) : CoreState := { c with ctrHi := v }

/-- `CTR_LO <- v` (R90). -/
def writeCtrLo (v : Word) (c : CoreState) : CoreState := { c with ctrLo := v }

/-- `DIGESTn <- v; DIGVALID <- 0; ClearCode` (R91). -/
def writeDigest (n : Fin 5) (v : Word) (c : CoreState) : CoreState :=
  clearCode { c with digest := Words5.set c.digest n v, digvalid := false }

/-- `RegWrite(off, v)` for a register whose write is not an instruction (20_memory.md R56). A write to a
read-only or reserved register is ignored (R33, R34). `CMD` and `KEYIN` do not come here: their words are
decoded. -/
def plainWrite (r : Reg) (v : Word) (c : CoreState) : CoreState :=
  match r with
  | .evt        => dismiss v c
  | .ie         => writeIe v c
  | .ctrHi      => guarded (writeCtrHi v) c
  | .ctrLo      => guarded (writeCtrLo v) c
  | .digest n   => guarded (writeDigest n v) c
  | .cmd        => c
  | .keyin      => c
  | .status     => c
  | .klen       => c
  | .offset     => c
  | .bin        => c
  | .code       => c
  | .bcd        => c
  | .reserved _ => c

end Sys2Proof.Machine
end

