-- ==== Sys2Proof/Machine/Sha1.lean ====
section
/-! DEFINITION. SHA-1 and HMAC (42_hmac_sha1.md R111 to R122; 41_key.md R103). The document names the two and the
spec defines them, from general knowledge by its own marks (log entry 8). -/

namespace Sys2Proof.Machine

/-- `IV` (R111). -/
def sha1Iv : Words5 := ⟨0x67452301, 0xEFCDAB89, 0x98BADCFE, 0x10325476, 0xC3D2E1F0⟩

/-- `ROTL(x, n)` for `0 < n < 32` (00_scope.md R13). -/
def rotl (x : Word) (n : Nat) : Word := (x <<< n) ||| (x >>> (32 - n))

/-- `W[0..16)`: the block read as sixteen big-endian words (R112). -/
def blockWords (b : Block) : List Word := (List.range 16).map fun t => be32At b.toList (4 * t)

/-- `W[t]` from the words before it, `t` being how many there are (R113). -/
def nextWord (w : List Word) : Word :=
  rotl (w.getD (w.length - 3) 0 ^^^ w.getD (w.length - 8) 0 ^^^ w.getD (w.length - 14) 0
    ^^^ w.getD (w.length - 16) 0) 1

/-- The message schedule extended by `n` words (R113). -/
def extendSchedule : Nat → List Word → List Word
  | 0,     w => w
  | n + 1, w => extendSchedule n (w ++ [nextWord w])

/-- `W[0..80)` (R112, R113). -/
def schedule (b : Block) : List Word := extendSchedule 64 (blockWords b)

/-- The round function `f(t; b, c, d)` (R114). -/
def roundFun (t : Nat) (b c d : Word) : Word :=
  if t < 20 then (b &&& c) ||| (~~~ b &&& d)
  else if t < 40 then b ^^^ c ^^^ d
  else if t < 60 then (b &&& c) ||| (b &&& d) ||| (c &&& d)
  else b ^^^ c ^^^ d

/-- The round constant `Kc(t)` (R114). -/
def roundConst (t : Nat) : Word :=
  if t < 20 then 0x5A827999
  else if t < 40 then 0x6ED9EBA1
  else if t < 60 then 0x8F1BBCDC
  else 0xCA62C1D6

/-- `Round(t; a, b, c, d, e)` with the schedule `w` (R115). -/
def sha1Round (w : List Word) (v : Words5) (t : Nat) : Words5 where
  w0 := rotl v.w0 5 + roundFun t v.w1 v.w2 v.w3 + v.w4 + roundConst t + w.getD t 0
  w1 := v.w0
  w2 := rotl v.w1 30
  w3 := v.w2
  w4 := v.w3

/-- The working variables after the first `n` rounds (R116). -/
def sha1Rounds (h : Words5) (b : Block) (n : Nat) : Words5 :=
  (List.range n).foldl (sha1Round (schedule b)) h

/-- Word by word, `+32` (R116). -/
def addWords (h v : Words5) : Words5 :=
  ⟨h.w0 + v.w0, h.w1 + v.w1, h.w2 + v.w2, h.w3 + v.w3, h.w4 + v.w4⟩

/-- `Compress(H, B)` (R116). -/
def compress (h : Words5) (b : Block) : Words5 := addWords h (sha1Rounds h b 80)

/-- The number of zero bytes of the padding (R117). -/
def padZeros (tailLen : Nat) : Nat := (119 - tailLen) % 64

/-- The padded bytes `tail ‖ 0x80 ‖ 0^z ‖ bytes64(8 · total)` (R117). -/
def padBytes (tail : List Byte) (total : Nat) : List Byte :=
  tail ++ [0x80] ++ List.replicate (padZeros tail.length) 0 ++ bytes64 (BitVec.ofNat 64 (8 * total))

/-- The `i`-th 64-byte block of a byte sequence. -/
def blockAt (s : List Byte) (i : Nat) : Block := blockOf (s.drop (64 * i))

/-- `PadBlocks(tail, total)` (R117). -/
def padBlocks (tail : List Byte) (total : Nat) : List Block :=
  (List.range ((padBytes tail total).length / 64)).map (blockAt (padBytes tail total))

/-- `SHA1Fin(H, tail, total)` before its words are written out as bytes (R118). -/
def sha1FinWords (h : Words5) (tail : List Byte) (total : Nat) : Words5 :=
  (padBlocks tail total).foldl compress h

/-- `SHA1Fin(H, tail, total)`: 20 bytes (R118). -/
def sha1Fin (h : Words5) (tail : List Byte) (total : Nat) : List Byte :=
  bytesOfWords (sha1FinWords h tail total)

/-- `H` after the first `n` blocks of `msg`, from `IV` (R119, R99). -/
def chain (msg : List Byte) (n : Nat) : Words5 :=
  (List.range n).foldl (fun h i => compress h (blockAt msg i)) sha1Iv

/-- `SHA1(msg)` (R119). -/
def sha1 (msg : List Byte) : List Byte :=
  sha1Fin (chain msg (msg.length / 64)) (msg.drop (64 * (msg.length / 64))) msg.length

/-- The byte of `ipad` (R121). -/
def ipad : Byte := 0x36

/-- The byte of `opad` (R121). -/
def opad : Byte := 0x5C

/-- `K0(K)`, the 64-byte key block (41_key.md R103). -/
def keyBlock (k : List Byte) : Block :=
  if k.length ≤ Config.blockBytes then blockOf k else blockOf (sha1 k)

/-- `HMAC(K, M)` (R121). -/
def hmac (k m : List Byte) : List Byte :=
  sha1 ((xorBlock (keyBlock k) opad).toList ++ sha1 ((xorBlock (keyBlock k) ipad).toList ++ m))

/-- `I` of R122, the inner hash of an 8-byte message. -/
def hmac8Inner (k0 : Block) (m : List Byte) : Words5 :=
  compress (compress sha1Iv (xorBlock k0 ipad))
    (blockOf (m ++ [0x80] ++ List.replicate 47 0 ++ bytes64 576))

/-- `HMAC8(k0, M)`: four compressions, five words (R122). -/
def hmac8 (k0 : Block) (m : List Byte) : Words5 :=
  compress (compress sha1Iv (xorBlock k0 opad))
    (blockOf (bytesOfWords (hmac8Inner k0 m) ++ [0x80] ++ List.replicate 35 0 ++ bytes64 672))

end Sys2Proof.Machine
end

