-- ==== Sys2Proof/Machine/Hmac.lean ====
section
/-! DEFINITION. The `HMAC` command (42_hmac_sha1.md R124 to R126). -/

namespace Sys2Proof.Machine

/-- The acceptance that `HMAC` and `GEN` share but for the opcode left in `PEND` (R125, 44_gen_and_host.md R150). -/
def acceptKeyed (p : EngineCmd) (c : CoreState) : CoreState :=
  if c.kst ≠ .keyready then raise .seq c
  else startEngine p (clearCode (clearDigest c))

/-- `Hmac`, acceptance (R125). -/
def hmacCommand (c : CoreState) : CoreState := acceptKeyed .hmac c

/-- The `HMAC` word written to `CMD` (R125). -/
def execHmac (s : State) : Host.Outcome State Fault Refusal := .next (s.mapCore (guarded hmacCommand))

/-- `HmacComplete`: the digest is written and the key consumed (R126). -/
def hmacComplete (c : CoreState) : CoreState :=
  zeroiseKey { c with digest := hmac8 c.kbuf (counterMessage c), digvalid := true }

end Sys2Proof.Machine
end

