-- ==== Sys2Proof/Machine/Trunc.lean ====
section
/-! DEFINITION. Dynamic truncation, the modulo-10^6 unit and the `TRUNC` command (43_trunc_mod.md R136 to R144). -/

namespace Sys2Proof.Machine

/-- `offset = digest[19] & 0x0F` (R136). -/
def truncOffset (d : Words5) : Nat := ((digestBytes d).getD 19 0 &&& Config.offsetMask).toNat

/-- `P = BE32(digest[offset .. offset+4))` (R137). -/
def truncWindow (d : Words5) : Word := be32At (digestBytes d) (truncOffset d)

/-- `BIN = P & 0x7FFFFFFF` (R139). -/
def truncBin (d : Words5) : Word := truncWindow d &&& Config.signMask

/-- `CODE = BIN mod 1000000` (R140). -/
def truncCode (d : Words5) : Word := truncBin d % Config.modulus

/-- The decimal digit `d(i) = (CODE div 10^i) mod 10` (R141). -/
def decimalDigit (code : Word) (i : Nat) : BitVec 4 := BitVec.ofNat 4 (code.toNat / 10 ^ i % 10)

/-- `BCD = zext_32(d(5) ‖ d(4) ‖ d(3) ‖ d(2) ‖ d(1) ‖ d(0))` (R141). -/
def bcdWord (code : Word) : Word :=
  (decimalDigit code 5 ++ decimalDigit code 4 ++ decimalDigit code 3 ++ decimalDigit code 2
    ++ decimalDigit code 1 ++ decimalDigit code 0).setWidth 32

/-- `BCD` of the truncation of a digest (R142). -/
def truncBcd (d : Words5) : Word := bcdWord (truncCode d)

/-- `Trunc`, acceptance: no precondition (R143). -/
def truncCommand (c : CoreState) : CoreState := startEngine .trunc (clearCode c)

/-- The `TRUNC` word written to `CMD` (R143). -/
def execTrunc (s : State) : Host.Outcome State Fault Refusal := .next (s.mapCore (guarded truncCommand))

/-- `TruncComplete` (R144). -/
def truncComplete (c : CoreState) : CoreState :=
  { c with
    offset    := BitVec.ofNat 32 (truncOffset c.digest)
    bin       := truncBin c.digest
    code      := truncCode c.digest
    bcd       := truncBcd c.digest
    codevalid := true }

end Sys2Proof.Machine
end

