-- ==== Sys2Proof/Machine/Gen.lean ====
section
/-! DEFINITION. The `GEN` command: HMAC and TRUNC as one (44_gen_and_host.md R150, R151). -/

namespace Sys2Proof.Machine

/-- `Gen`, acceptance (R150). -/
def genCommand (c : CoreState) : CoreState := acceptKeyed .gen c

/-- The `GEN` word written to `CMD` (R150). -/
def execGen (s : State) : Host.Outcome State Fault Refusal := .next (s.mapCore (guarded genCommand))

/-- `GenComplete` (R151). -/
def genComplete (c : CoreState) : CoreState := truncComplete (hmacComplete c)

end Sys2Proof.Machine
end

