-- ==== Sys2Proof/Machine/Key.lean ====
section
/-! DEFINITION. Key entry: `KEYSTART`, the `KEYIN` write, `KEYEND` (41_key.md R96 to R104). -/

namespace Sys2Proof.Machine

/-- `KeyStart` (R96). -/
def keyStartCommand (c : CoreState) : CoreState :=
  clearCode (clearDigest { c with kbuf := zeroBlock, kh := sha1Iv, klen := 0, kst := .keyload })

/-- The `KEYSTART` word written to `CMD` (R96). -/
def execKeystart (s : State) : Host.Outcome State Fault Refusal := .next (s.mapCore (guarded keyStartCommand))

/-- The first half of an accepted `KEYIN` write: a full buffer that is not the last block is compressed into
`KH` and zeroed (R98). -/
def keyFlush (c : CoreState) : CoreState :=
  if 64 ≤ c.klen.toNat ∧ c.klen.toNat % 64 = 0 then
    { c with kh := compress c.kh c.kbuf, kbuf := zeroBlock }
  else c

/-- The second half: `KBUF[i] <- b; KLEN <- KLEN + 1` with `i = KLEN mod 64` (R98). -/
def keyStore (b : Byte) (c : CoreState) : CoreState :=
  { c with kbuf := c.kbuf.set (c.klen.toNat % 64) b (Nat.mod_lt _ (by decide)), klen := c.klen + 1 }

/-- `KeyIn(b)` (R98). -/
def keyIn (b : Byte) (c : CoreState) : CoreState :=
  if c.kst ≠ .keyload then raise .seq c
  else if c.klen = Config.klenLimit then raise .keyovf (zeroiseKey c)
  else keyStore b (keyFlush c)

/-- A word written to `KEYIN`; bits 31:8 are ignored (R77, R98). -/
def execKeyin (_ign : BitVec 24) (b : Byte) (s : State) : Host.Outcome State Fault Refusal :=
  .next (s.mapCore (guarded (keyIn b)))

/-- `KeyEnd`, acceptance (R101). -/
def keyEndCommand (c : CoreState) : CoreState :=
  if c.kst ≠ .keyload then raise .seq c
  else if c.klen = 0 then raise .invkey (zeroiseKey c)
  else startEngine .keyend c

/-- The `KEYEND` word written to `CMD` (R101). -/
def execKeyend (s : State) : Host.Outcome State Fault Refusal := .next (s.mapCore (guarded keyEndCommand))

/-- `KeyEndComplete` (R104). -/
def keyEndComplete (c : CoreState) : CoreState :=
  { c with
    kbuf := if c.klen.toNat > 64 then blockOf (sha1Fin c.kh (keyTail c) c.klen.toNat) else c.kbuf
    kh   := Words5.zero
    kst  := .keyready }

end Sys2Proof.Machine
end

