-- ==== Sys2Proof/Machine/Dispatch.lean ====
section
/-! DEFINITION. One arm per instruction: the host write that carries it (20_memory.md R56, 30_encoding.md R72). -/

namespace Sys2Proof.Machine

def exec (i : Instr) (s : State) : Host.Outcome State Fault Refusal :=
  match i with
  | .nop => Sys2Proof.Machine.execNop s
  | .clr => Sys2Proof.Machine.execClr s
  | .keystart => Sys2Proof.Machine.execKeystart s
  | .keyend => Sys2Proof.Machine.execKeyend s
  | .hmac => Sys2Proof.Machine.execHmac s
  | .trunc => Sys2Proof.Machine.execTrunc s
  | .gen => Sys2Proof.Machine.execGen s
  | .keyin ign b => Sys2Proof.Machine.execKeyin ign b s

end Sys2Proof.Machine
end

