-- ==== Sys2Proof/Machine/Engine.lean ====
section
/-! DEFINITION. The engine's one step, the completion of the pending command (20_memory.md R60). -/

namespace Sys2Proof.Machine

/-- The work of a pending command, before `BUSY`, `PEND` and `EVT.DONE` are written (R60). -/
def engineWork (p : EngineCmd) (c : CoreState) : CoreState :=
  match p with
  | .keyend => keyEndComplete c
  | .hmac   => hmacComplete c
  | .trunc  => truncComplete c
  | .gen    => genComplete c

/-- `EngineStep` for the pending command `p` (R60). -/
def engineStep (p : EngineCmd) (c : CoreState) : CoreState := finishEngine (engineWork p c)

/-- The engine's turn: enabled exactly when `BUSY = 1` (R60), and nothing happens when it is not
(log entry 4). -/
def engineTurn (s : State) : Host.Outcome State Fault Refusal :=
  if s.core.busy then
    match s.core.pend with
    | some p => .next (s.mapCore (engineStep p))
    | none   => .fault .noPendingCommand
  else .next s

end Sys2Proof.Machine
end

