-- ==== Sys2Proof/Machine/Port.lean ====
section
/-! DEFINITION. The port: what one host write, one host read and one turn of the schedule do (00_scope.md R8;
20_memory.md R50 to R56; 70_reset_and_hazards.md R190). -/

namespace Sys2Proof.Machine

/-! ### RegWrite as 20_memory.md writes it -/

/-- `ExecCmd(w)`, with the case table of R72. The last line is never reached. -/
def execCmd (w : Word) (c : CoreState) : CoreState :=
  if rsvField w ≠ 0 ∨ opField w > 6 then raise .illcmd c
  else match (opField w).toNat with
    | 0 => nopCommand c
    | 1 => clrCommand c
    | 2 => keyStartCommand c
    | 3 => keyEndCommand c
    | 4 => hmacCommand c
    | 5 => truncCommand c
    | 6 => genCommand c
    | _ => raise .illcmd c

/-- `RegWrite(off, v)` as one function of the core (R56). The step does not call it: a step decodes the word
and runs `exec`, and a statement says that the two agree. -/
def regWrite (r : Reg) (v : Word) (c : CoreState) : CoreState :=
  match r with
  | .cmd   => guarded (execCmd v) c
  | .keyin => guarded (keyIn (v.extractLsb' 0 8)) c
  | r      => plainWrite r v c

/-! ### The turns -/

/-- `HostWrite`: the written word is decoded and runs as an instruction; an illegal command word raises
`ILLCMD`; a write to any other register is a plain write (R56, R72, R74). -/
def hostWrite (r : Reg) (v : Word) (s : State) : Host.Outcome State Fault Refusal :=
  match decode r v with
  | .ok i                  => exec i s
  | .error .illegalCommand => .next (s.mapCore (guarded (raise .illcmd)))
  | .error .plainRegister  => .next (s.mapCore (plainWrite r v))

/-- `HostRead`: the host gets the value and no state of the core changes (R55). -/
def hostRead (r : Reg) (s : State) : State := { s with reads := regRead r s.core :: s.reads }

/-- Why the port cannot carry an access, if it cannot (R50, R52). -/
def portRefusal (a : Access) : Option Refusal :=
  if !a.wholeWord then some .notWordAccess
  else if !a.inWindow then some .outsideWindow
  else none

/-- `Reset`: the core goes to `ResetState` whatever it was doing (R190, R191). -/
def resetTurn (s : State) : State := { s with core := CoreState.reset }

/-- What the host's `wait` still has to do after a read of `STATUS` (30_encoding.md R81): nothing if that read
said `BUSY = 0`; otherwise a further read, which finds the core busy again, or with the engine stepping
before it. DESIGN CHOICE (log entry 6): where in the row of reads the engine steps is the number in the turn;
an engine step before the first read is an engine turn in front of the `poll`. -/
def afterPoll (n : Nat) (busy : Bool) : List Turn :=
  if busy then
    match n with
    | 0     => [.engine, .poll 0]
    | k + 1 => [.poll k]
  else []

/-- The machine takes the next turn of the schedule. When none is left the engine has the turn (log entry 3). -/
def takeTurn (s : State) : Host.Outcome State Fault Refusal :=
  match s.turns with
  | [] => engineTurn s
  | .engine :: rest => engineTurn { s with turns := rest }
  | .reset :: rest => .next (resetTurn { s with turns := rest })
  | .write a v :: rest =>
    match portRefusal a with
    | some r => .refused r
    | none   => hostWrite a.reg v { s with turns := rest }
  | .read a :: rest =>
    match portRefusal a with
    | some r => .refused r
    | none   => .next (hostRead a.reg { s with turns := rest })
  | .poll n :: rest =>
    .next (hostRead .status { s with turns := afterPoll n s.core.busy ++ rest })

end Sys2Proof.Machine
end

