-- ==== Sys2Proof/Machine/Step.lean ====
section
/-! DEFINITION. One step of the machine, and where it finds its next instruction: at the head of the schedule. -/

namespace Sys2Proof.Machine

/-- One step: one turn of the schedule, one of the four transitions of 00_scope.md R8. -/
def step (s : State) : Host.Outcome State Fault Refusal := takeTurn s

/-- `s` with the write that carries the instruction scheduled as the very next turn. The core fetches nothing
(20_memory.md R64): an instruction runs in the host write that writes its word, so this is what placing it
takes. -/
def State.withFetchWord (s : State) (nbits w : Nat) : State :=
  { s with turns := .write ⟨4 * tableIndex nbits w, 4⟩ (tableData nbits w) :: s.turns }

end Sys2Proof.Machine
end

