-- ==== Sys2Proof/Machine/Driver.lean ====
section
/-! DEFINITION. The host: the script notation (30_encoding.md R80 to R82) and what a driver of the core does
(44_gen_and_host.md R155 to R159). A script is a list of the host's own turns, and the engine's turns may stand anywhere
among them (`hostTurns`); nothing here is state of the core. -/

namespace Sys2Proof.Machine

/-! ### The script notation -/

/-- One line of a host script: the three accesses of R80, a comment, and the pseudo-instructions of R81. The
numbers of polls say how long each `wait` lasts (`Turn.poll`). -/
inductive HostLine where
  | wr (r : Reg) (v : Word)
  | rd (r : Reg)
  | cmd (i : Instr)
  | comment (text : String)
  | wait (polls : Nat)
  | key (k : List Byte) (polls : Nat)
  | ctr (n : BitVec 64)
  | digest (w : Words5)
  | ack (mask : Word)
  | totp (text : List Byte) (t : Int) (keyPolls genPolls : Nat)
  deriving DecidableEq, Repr

/-- `wr REG, value` (R80). -/
def wrTurn (r : Reg) (v : Word) : Turn := .write r.access v

/-- `rd REG` (R80). -/
def rdTurn (r : Reg) : Turn := .read r.access

/-- `cmd MNEMONIC` (R80): the word of the command written to `CMD`. -/
def cmdTurn (i : Instr) : Turn := wrTurn (encode i).1 (encode i).2

/-- `wr KEYIN, b` for each byte of a key, in order (R81). -/
def keyinTurns (k : List Byte) : List Turn := k.map fun b => wrTurn .keyin (b.setWidth 32)

/-- `ctr n` (R81). -/
def ctrTurns (n : BitVec 64) : List Turn :=
  [wrTurn .ctrHi (n.extractLsb' 32 32), wrTurn .ctrLo (n.extractLsb' 0 32)]

/-- `key b0 …` (R81). -/
def keyTurns (k : List Byte) (polls : Nat) : List Turn :=
  cmdTurn .keystart :: keyinTurns k ++ [cmdTurn .keyend, .poll polls]

/-- The time step of a time in seconds (R155). The host must not present a negative time or one whose counter
does not fit 64 bits: there is no script for it. -/
def timeStep (t : Int) : Option (BitVec 64) :=
  if 0 ≤ t ∧ t < Config.stepSeconds * 2 ^ Config.ctrBits then
    some (BitVec.ofNat 64 (t.toNat / Config.stepSeconds))
  else none

/-- The accesses of a line (R80, R81). `totp` writes `ctr (t div 30)`, and R81 gives `ctr n` for `n < 2^64` only: for
a time that has no time step (R155) there is no script, and the answer is `none`. DESIGN CHOICE (log entry 14):
that the missing script is `none`; no counter wraps. -/
def HostLine.turns : HostLine → Option (List Turn)
  | .wr r v      => some [wrTurn r v]
  | .rd r        => some [rdTurn r]
  | .cmd i       => some [cmdTurn i]
  | .comment _   => some []
  | .wait polls  => some [.poll polls]
  | .key k polls => some (keyTurns k polls)
  | .ctr n       => some (ctrTurns n)
  | .digest w    => some [wrTurn (.digest 0) w.w0, wrTurn (.digest 1) w.w1, wrTurn (.digest 2) w.w2,
                          wrTurn (.digest 3) w.w3, wrTurn (.digest 4) w.w4]
  | .ack mask    => some [wrTurn .evt mask]
  | .totp text t keyPolls genPolls => (timeStep t).map fun n =>
    keyTurns text keyPolls ++ ctrTurns n
      ++ [cmdTurn .gen, .poll genPolls, rdTurn .status, rdTurn .evt, rdTurn .bcd]

/-- The turns of a whole script, if every line has a script. -/
def scriptTurns : List HostLine → Option (List Turn)
  | []         => some []
  | line :: ls => line.turns.bind fun ts => (scriptTurns ls).map (ts ++ ·)

/-- The turns of a schedule that are not the engine's. A script says only what the host does, and the engine may
step before, between and after its accesses (20_memory.md R60, R61): the schedules that run the script `h` are
all those with `hostTurns ts = h`. Together with the number in each `poll`, which says how many reads of a
`wait` find the core busy, they are every place the engine's step can fall in (log entry 6). -/
def hostTurns (ts : List Turn) : List Turn := ts.filter (· ≠ .engine)

/-- One hexadecimal digit, as R82 writes it. -/
def hexDigit (n : Nat) : Char :=
  ['0', '1', '2', '3', '4', '5', '6', '7', '8', '9', 'A', 'B', 'C', 'D', 'E', 'F'].getD n '0'

/-- A number in hexadecimal, in the given number of digits. -/
def hexDigits (digits v : Nat) : List Char :=
  (List.range digits).map fun i => hexDigit (v / 16 ^ (digits - 1 - i) % 16)

/-- The bus encoding of a turn that is one access: `W oo vvvvvvvv` or `R oo` (R82). -/
def busLine : Turn → Option (List Char)
  | .write a v => some (['W', ' '] ++ hexDigits 2 a.offset ++ [' '] ++ hexDigits 8 v.toNat)
  | .read a    => some (['R', ' '] ++ hexDigits 2 a.offset)
  | .engine    => none
  | .reset     => none
  | .poll _    => none

/-! ### One invocation -/

/-- The first part of the script of R156, up to the read of `EVT` after KEYEND. DESIGN CHOICE (log entry 6): it holds
the host's turns only and places no engine step; in a run the engine's turns stand among them (`hostTurns`), so
the engine may complete KEYEND before or after the read of `EVT`. -/
def invocationStart (polls : Nat) (k : List Byte) : List Turn :=
  [.poll polls, wrTurn .evt 0x3F, cmdTurn .keystart] ++ keyinTurns k ++ [cmdTurn .keyend, rdTurn .evt]

/-- The rest of the script of R156, once the host has read `e` from `EVT`. DESIGN CHOICE (log entry 6): it holds the
host's turns only, as `invocationStart` does. -/
def invocationRest (e : Word) (counter : BitVec 64) (keyPolls genPolls : Nat) : List Turn :=
  if e.getLsbD 1 then [wrTurn .evt 0x02]
  else .poll keyPolls :: ctrTurns counter
    ++ [cmdTurn .gen, .poll genPolls, rdTurn .status, rdTurn .bcd]

/-- The characters of the code, `code[j] = 0x30 + BCD[23 - 4j : 20 - 4j]` (R158). -/
def renderCode (bcd : Word) : List Byte :=
  (List.range 6).map fun j => 0x30 + (bcd.extractLsb' (20 - 4 * j) 4).setWidth 8

/-- What an invocation gives its caller (R156, R159). -/
inductive Generated where
  /-- the six characters -/
  | code (s : List Byte)
  /-- the document's `InvalidKey` -/
  | invalidKey
  /-- `STATUS.CODEVALID` was not set: the host's sequence was wrong -/
  | wrongUse
  deriving DecidableEq, Repr

/-- What the host returns from what it has read: `EVT` after KEYEND, then `STATUS` and `BCD` at the end (R156). -/
def invocationResult (e status bcd : Word) : Generated :=
  if e.getLsbD 1 then .invalidKey
  else if status.getLsbD 4 then .code (renderCode bcd)
  else .wrongUse

/-- No event but `DONE` is set: otherwise the host's sequence was wrong and the result is not to be used (R156). -/
def resultUsable (evt : Word) : Bool := evt &&& ~~~ Event.mask .done == 0

end Sys2Proof.Machine
end

