-- ==== Sys2Proof/Safety.lean ====
section
/-! DEFINITION. What holds in every reachable state (10_state.md R45), what a safe state is, and runs: the terms in
which claims are stated. -/

namespace Sys2Proof.Machine

/-- What `KBUF`, `KH` and `KLEN` mean while the key `k` is being entered (41_key.md R99; R45 item 4). -/
structure KeyEntered (k : List Byte) (c : CoreState) : Prop where
  klen : c.klen.toNat = k.length
  kh   : c.kh = chain k (headBlocks k.length)
  kbuf : c.kbuf = blockAt k (headBlocks k.length)

/-- What they mean once the key is ready (R45 item 5). -/
structure KeyReady (k : List Byte) (c : CoreState) : Prop where
  klen     : c.klen.toNat = k.length
  nonempty : 1 ≤ k.length
  kh       : c.kh = Words5.zero
  kbuf     : c.kbuf = keyBlock k

/-- No key material is held (R45 item 3). -/
structure NoKey (c : CoreState) : Prop where
  klen : c.klen = 0
  kh   : c.kh = Words5.zero
  kbuf : c.kbuf = zeroBlock

/-- The result registers are zero (R45 item 7, first half). -/
structure NoResult (c : CoreState) : Prop where
  offset : c.offset = 0
  bin    : c.bin = 0
  code   : c.code = 0
  bcd    : c.bcd = 0

/-- The result registers hold `Trunc` of the digest registers (R142; R45 item 7, second half). -/
structure ResultOfDigest (c : CoreState) : Prop where
  offset : c.offset = BitVec.ofNat 32 (truncOffset c.digest)
  bin    : c.bin = truncBin c.digest
  code   : c.code = truncCode c.digest
  bcd    : c.bcd = truncBcd c.digest

/-- The ranges of the result registers (R45 item 8). -/
structure ResultRanges (c : CoreState) : Prop where
  offset : c.offset.toNat < 16
  bin    : c.bin.toNat < 2 ^ 31
  code   : c.code.toNat < 10 ^ 6
  digits : ∀ i < 6, c.bcd.toNat / 16 ^ i % 16 ≤ 9
  top    : c.bcd.toNat < 2 ^ 24

/-- The invariants of R45, one field for each item but item 2: `KST ≠ 3` holds because `KeyState` has three
constructors. The key `K` is a name of the rules and no register, so items 4 and 5 say that there is such a
byte sequence. -/
structure Inv (c : CoreState) : Prop where
  item1a : c.busy = true ↔ c.pend ≠ none
  item3  : c.kst = .nokey → NoKey c
  item4  : c.kst = .keyload → ∃ k, KeyEntered k c
  item5  : c.kst = .keyready → ∃ k, KeyReady k c
  item6a : c.pend = some .keyend → c.kst = .keyload ∧ 1 ≤ c.klen.toNat
  item6b : c.pend = some .hmac ∨ c.pend = some .gen → c.kst = .keyready
  item7a : c.codevalid = false → NoResult c
  item7b : c.codevalid = true → ResultOfDigest c
  item8  : ResultRanges c
  item9  : c.evt.toNat < 2 ^ 6 ∧ c.ie.toNat < 2 ^ 6
  item10a : c.pend = some .hmac ∨ c.pend = some .gen → c.digvalid = false ∧ c.digest = Words5.zero
  item10b : c.pend = some .hmac ∨ c.pend = some .gen ∨ c.pend = some .trunc → c.codevalid = false

/-- The guarded registers of 20_memory.md R56. -/
def guardedReg : Reg → Bool
  | .cmd        => true
  | .keyin      => true
  | .ctrHi      => true
  | .ctrLo      => true
  | .digest _   => true
  | .status     => false
  | .evt        => false
  | .ie         => false
  | .klen       => false
  | .offset     => false
  | .bin        => false
  | .code       => false
  | .bcd        => false
  | .reserved _ => false

/-- The table of 60_exceptions.md R173: which key state admits which instruction. -/
def admitted : Instr → KeyState → Bool
  | .nop,       _ => true
  | .clr,       _ => true
  | .keystart,  _ => true
  | .keyin _ _, k => k == .keyload
  | .keyend,    k => k == .keyload
  | .hmac,      k => k == .keyready
  | .trunc,     _ => true
  | .gen,       k => k == .keyready

/-- The next turn is the engine's: it is scheduled, or nothing is. -/
def engineNext (s : State) : Prop := s.turns = [] ∨ ∃ rest, s.turns = .engine :: rest

/-- The event's bit of `EVT` is set. -/
def eventSet (e : Event) (c : CoreState) : Bool := c.evt.getLsbD e.code

/-- The step from `s` to `t` raises the event. -/
def raisedBy (e : Event) (s t : State) : Prop := eventSet e s.core = false ∧ eventSet e t.core = true

/-- A safe state: the core meets the invariant and every scheduled access can be carried by the port. -/
def Safe (s : State) : Prop := Inv s.core ∧ ∀ t ∈ s.turns, t.wf = true

/-- `n` steps, ending at the first fault or refusal: `Host.Core.run` of `Sys2Proof.core`, with the machine's own
types in view. -/
def run : Nat → State → Host.Outcome State Fault Refusal
  | 0, s => .next s
  | n + 1, s =>
    match step s with
    | .next t    => run n t
    | .fault r   => .fault r
    | .refused r => .refused r

/-- Some number of steps leads from `s` to `t`, none of them stopping. -/
def Reaches (s t : State) : Prop := ∃ n, run n s = .next t

/-- Two cores agree on everything but the hidden key material `KBUF` and `KH` (R40). -/
def AgreeButHidden (c d : CoreState) : Prop := { d with kbuf := c.kbuf, kh := c.kh } = c

end Sys2Proof.Machine
end

