-- ==== Sys2Proof/Certificates/Slice0/Obligations.lean ====
section
/-! DEFINITION. The statements for the provers. Each docstring names the rules of spec/ a statement formalises. In
all of them `s` is any state, reachable or not, unless an invariant is a premise.

How a statement names one of the four transitions of 00_scope.md R8 is the model's choice: the turn at the head
of `turns` (log entry 1), the engine's turn also where no turn is left (log entry 3), a read's value at the head
of `reads` (log entry 2). What the transition then does to the core is what the rule says. -/

open Sys2Proof Sys2Proof.Machine

/-! ### Encoding and the register map -/

/-- R71, R77: a word written to a register decodes to an instruction exactly when it is that instruction's
encoding. Both directions: no bit of an encoding is dropped, and no other word means the same. -/
def Obligations.DecodeIsTheInverseOfEncode : Prop :=
  ∀ (r : Reg) (w : Word) (i : Instr), decode r w = .ok i ↔ encode i = (r, w)

/-- R71, R77: words written out from the tables, each decoding to its instruction; the first seven also through
the table's own numbering, and `KEYIN` with the word index of its register above bit 31. -/
def Obligations.TableWordsDecodeToTheirInstructions : Prop :=
  decodeTableWord 32 0x00000000 = some .nop ∧
  decodeTableWord 32 0x00000001 = some .clr ∧
  decodeTableWord 32 0x00000002 = some .keystart ∧
  decodeTableWord 32 0x00000003 = some .keyend ∧
  decodeTableWord 32 0x00000004 = some .hmac ∧
  decodeTableWord 32 0x00000005 = some .trunc ∧
  decodeTableWord 32 0x00000006 = some .gen ∧
  decodeTableWord 32 0x00000007 = none ∧
  decodeTableWord 32 0x00000100 = none ∧
  decodeTableWord 40 0x0400000141 = some (.keyin 1 0x41) ∧
  decode .keyin 0xFFFFFF00 = .ok (.keyin 0xFFFFFF 0)

/-- R20: the seventeen registers stand at their offsets and the fifteen words after them are reserved; there
are no aliases, and every whole-word access of the window is that of exactly one register. -/
def Obligations.RegisterMapHasNoAliases : Prop :=
  (∀ r : Reg, r.access.wf = true ∧ r.access.reg = r) ∧
  (∀ a : Access, a.wf = true → a.reg.access = a) ∧
  Reg.cmd.access.offset = 0x00 ∧ Reg.status.access.offset = 0x04 ∧ Reg.evt.access.offset = 0x08 ∧
  Reg.ie.access.offset = 0x0C ∧ Reg.keyin.access.offset = 0x10 ∧ Reg.klen.access.offset = 0x14 ∧
  Reg.ctrHi.access.offset = 0x18 ∧ Reg.ctrLo.access.offset = 0x1C ∧
  (∀ n : Fin 5, (Reg.digest n).access.offset = 0x20 + 4 * n.val) ∧
  Reg.offset.access.offset = 0x34 ∧ Reg.bin.access.offset = 0x38 ∧ Reg.code.access.offset = 0x3C ∧
  Reg.bcd.access.offset = 0x40 ∧ (∀ k : Fin 15, (Reg.reserved k).access.offset = 0x44 + 4 * k.val)

/-- R74: exactly the words above 6 are illegal (there are `2^32 - 7` of them). Written to `CMD` while `BUSY = 0`
such a word raises `ILLCMD` (bit 2) and changes nothing else. While `BUSY = 1` no word written to `CMD` is
decoded: legal or not, it raises `BUSYWR` (bit 4) only. -/
def Obligations.IllegalWordsRaiseIllcmdOnly : Prop :=
  ∀ (s : State) (w : Word) (rest : List Turn), s.turns = wrTurn .cmd w :: rest →
    ((w.extractLsb' 8 24 ≠ 0 ∨ w.extractLsb' 0 8 > 6) ↔ 7 ≤ w.toNat) ∧
    (s.core.busy = false → 7 ≤ w.toNat →
      step s = .next { s with turns := rest, core := { s.core with evt := s.core.evt ||| 0x04 } }) ∧
    (s.core.busy = true →
      step s = .next { s with turns := rest, core := { s.core with evt := s.core.evt ||| 0x10 } })

/-! ### The step -/

/-- A step runs the decoded instruction: with the write next in the schedule it is `exec` of the instruction on
the state with that turn taken, and nothing else is added around it. An instruction placed by `withFetchWord`
is the one the very next step runs. (The schedule is the model's: log entry 1.) -/
def Obligations.StepRunsTheDecodedInstruction : Prop :=
  (∀ (s : State) (a : Access) (v : Word) (rest : List Turn) (i : Instr),
    s.turns = .write a v :: rest → a.wf = true → decode a.reg v = .ok i →
    step s = exec i { s with turns := rest }) ∧
  (∀ (s : State) (nbits w : Nat) (i : Instr),
    decodeTableWord nbits w = some i → step (s.withFetchWord nbits w) = exec i s)

/-- R56 (with the decoding of R72): the step on a host write is the `RegWrite` of 20_memory.md, which the model
also writes down as one function of the core; nothing but the core and the turn taken changes. -/
def Obligations.StepOnAHostWriteIsRegWrite : Prop :=
  ∀ (s : State) (a : Access) (v : Word) (rest : List Turn),
    s.turns = .write a v :: rest → a.wf = true →
    step s = .next { s with turns := rest, core := regWrite a.reg v s.core }

/-- R55: a host read gives the host the value of `RegRead(off)`, whether or not `BUSY = 1`, and changes no state
of the core. While `BUSY = 1`, in a state that meets the invariant, the result registers that the pending
command will write read as zero. -/
def Obligations.HostReadFollowsRegRead : Prop :=
  ∀ (s : State) (a : Access) (rest : List Turn), s.turns = .read a :: rest → a.wf = true →
    ∃ v : Word, step s = .next { s with turns := rest, reads := v :: s.reads } ∧
      (a.offset = 0x00 → v = 0) ∧
      (a.offset = 0x04 → v.toNat = s.core.busy.toNat + 2 * s.core.kst.code.toNat
        + 8 * s.core.digvalid.toNat + 16 * s.core.codevalid.toNat) ∧
      (a.offset = 0x08 → v = s.core.evt) ∧
      (a.offset = 0x0C → v = s.core.ie) ∧
      (a.offset = 0x10 → v = 0) ∧
      (a.offset = 0x14 → v = s.core.klen) ∧
      (a.offset = 0x18 → v = s.core.ctrHi) ∧
      (a.offset = 0x1C → v = s.core.ctrLo) ∧
      (a.offset = 0x20 → v = s.core.digest.w0) ∧
      (a.offset = 0x24 → v = s.core.digest.w1) ∧
      (a.offset = 0x28 → v = s.core.digest.w2) ∧
      (a.offset = 0x2C → v = s.core.digest.w3) ∧
      (a.offset = 0x30 → v = s.core.digest.w4) ∧
      (a.offset = 0x34 → v = s.core.offset) ∧
      (a.offset = 0x38 → v = s.core.bin) ∧
      (a.offset = 0x3C → v = s.core.code) ∧
      (a.offset = 0x40 → v = s.core.bcd) ∧
      (0x44 ≤ a.offset → v = 0) ∧
      (Inv s.core → s.core.pend = some .hmac ∨ s.core.pend = some .gen →
        0x20 ≤ a.offset → a.offset ≤ 0x30 → v = 0) ∧
      (Inv s.core → s.core.pend = some .trunc ∨ s.core.pend = some .gen →
        0x34 ≤ a.offset → a.offset ≤ 0x40 → v = 0)

/-- R33: the reserved words 0x44 to 0x7C read 0, and a write to one is ignored and sets no event, whether or
not `BUSY = 1`. -/
def Obligations.ReservedWordsReadZeroAndIgnoreWrites : Prop :=
  ∀ (s : State) (off : Nat) (v : Word) (rest : List Turn), 0x44 ≤ off → off ≤ 0x7C → off % 4 = 0 →
    (s.turns = .write ⟨off, 4⟩ v :: rest → step s = .next { s with turns := rest }) ∧
    (s.turns = .read ⟨off, 4⟩ :: rest → step s = .next { s with turns := rest, reads := 0 :: s.reads })

/-- R34: a write to a read-only register is ignored and sets no event, whether or not `BUSY = 1`. The reserved
bits of every register read as zero (in a state that meets the invariant), and what is written to those of
`EVT` and `IE`, the only writable registers that have any, does not matter. -/
def Obligations.ReadOnlyRegistersAndReservedBits : Prop :=
  (∀ (s : State) (r : Reg) (v : Word) (rest : List Turn),
    r = .status ∨ r = .klen ∨ r = .offset ∨ r = .bin ∨ r = .code ∨ r = .bcd →
    s.turns = wrTurn r v :: rest → step s = .next { s with turns := rest }) ∧
  (∀ c : CoreState, Inv c →
    (regRead .status c).toNat < 2 ^ 5 ∧ (regRead .evt c).toNat < 2 ^ 6 ∧ (regRead .ie c).toNat < 2 ^ 6 ∧
    (regRead .offset c).toNat < 2 ^ 4 ∧ (regRead .bin c).toNat < 2 ^ 31 ∧ (regRead .code c).toNat < 2 ^ 20 ∧
    (regRead .bcd c).toNat < 2 ^ 24) ∧
  (∀ (s : State) (r : Reg) (v w : Word) (rest : List Turn), r = .evt ∨ r = .ie →
    v.extractLsb' 0 6 = w.extractLsb' 0 6 →
    step { s with turns := wrTurn r v :: rest } = step { s with turns := wrTurn r w :: rest })

/-- R52, R50: an access that is not 32 bits wide or not aligned is refused, and so is one beyond the 32 words:
the machine takes no step on it. (The names of the refusals are the model's.) -/
def Obligations.AccessesThePortCannotCarryAreRefused : Prop :=
  ∀ (s : State) (a : Access) (rest : List Turn),
    (s.turns = .read a :: rest ∨ ∃ v, s.turns = .write a v :: rest) →
    (a.bytes ≠ 4 ∨ a.offset % 4 ≠ 0 → step s = .refused .notWordAccess) ∧
    (a.bytes = 4 → a.offset % 4 = 0 → 128 ≤ a.offset → step s = .refused .outsideWindow)

/-- R60: the engine's step is enabled exactly when `BUSY = 1`; it does the work of the pending command and then
`BUSY <- 0; PEND <- 0; EVT.DONE <- 1`. A turn of the engine while `BUSY = 0` changes nothing (log entry 4), and
when no turn is scheduled the engine has it (log entry 3). -/
def Obligations.EngineStepsExactlyWhenBusy : Prop :=
  ∀ (s : State) (rest : List Turn),
    (s.turns = .engine :: rest ∨ (s.turns = [] ∧ rest = [])) →
    (s.core.busy = false → step s = .next { s with turns := rest }) ∧
    (∀ p, s.core.busy = true → s.core.pend = some p →
      step s = .next { s with
        turns := rest,
        core := { engineWork p s.core with
          busy := false, pend := none, evt := (engineWork p s.core).evt ||| 0x01 } }) ∧
    engineWork .keyend s.core = keyEndComplete s.core ∧ engineWork .hmac s.core = hmacComplete s.core ∧
    engineWork .trunc s.core = truncComplete s.core ∧
    engineWork .gen s.core = truncComplete (hmacComplete s.core)

/-- R190, R191: reset is enabled in any state, whatever the core is doing, and leads to `ResetState`: the running
command is dropped, no result is written, the key material is zeroed. -/
def Obligations.ResetIsAlwaysEnabled : Prop :=
  ∀ (s : State) (rest : List Turn), s.turns = .reset :: rest →
    step s = .next { s with turns := rest, core := State.reset.core }

/-- R46: in `ResetState` every register reads zero, every piece of hidden state is zero, and `irq` is 0. -/
def Obligations.ResetStateIsAllZero : Prop :=
  (∀ r : Reg, regRead r State.reset.core = 0) ∧
  State.reset.core.busy = false ∧ State.reset.core.kst = .nokey ∧
  State.reset.core.digvalid = false ∧ State.reset.core.codevalid = false ∧
  (∀ i : Nat, State.reset.core.kbuf.toList.getD i 0 = 0) ∧
  State.reset.core.kh = ⟨0, 0, 0, 0, 0⟩ ∧ pendField State.reset.core = 0 ∧
  irq State.reset.core = false

/-- R81 `wait`, with the engine stepping after `n + 1` reads that find the core busy, for any `n`: the host ends
with the core idle, after the one engine step, and has read the busy `STATUS` `n + 1` times and the idle one
once. On an idle core `wait` is one read, and so it is when the engine steps before the first one. (The schedule of the engine is the model's: log entry 6.) -/
def Obligations.WaitReturnsAfterTheEngineStep : Prop :=
  ∀ (s : State) (n : Nat) (rest : List Turn), s.turns = .poll n :: rest →
    (s.core.busy = false →
      run 1 s = .next { s with turns := rest, reads := statusWord s.core :: s.reads }) ∧
    (∀ p, s.core.busy = true → s.core.pend = some p →
      run (n + 3) s = .next { s with
        turns := rest,
        core := engineStep p s.core,
        reads := statusWord (engineStep p s.core) ::
          (List.replicate (n + 1) (statusWord s.core) ++ s.reads) }) ∧
    (∀ p, s.core.busy = true → s.core.pend = some p →
      run 2 { s with turns := .engine :: s.turns } = .next { s with
        turns := rest,
        core := engineStep p s.core,
        reads := statusWord (engineStep p s.core) :: s.reads })

/-! ### The invariant -/

/-- R45 at reset. -/
def Obligations.ResetStateMeetsTheInvariant : Prop := Inv State.reset.core

/-- R45: every step keeps the ten items, from any state that meets them. -/
def Obligations.EveryStepKeepsTheInvariant : Prop :=
  ∀ s t : State, Inv s.core → step s = .next t → Inv t.core

/-- A safe state always steps to a safe state: no event, no misuse of the interface and no data stop the
machine (60_exceptions.md R179). -/
def Obligations.SafeStatesNeverStop : Prop :=
  ∀ s : State, Safe s → ∃ t, step s = .next t ∧ Safe t

/-! ### Events -/

/-- R174: a write to a guarded register while `BUSY = 1` sets `BUSYWR` (bit 4), is dropped and changes nothing
else, whatever the word; a write to any other register does not set it. -/
def Obligations.BusyCoreDropsGuardedWrites : Prop :=
  ∀ (s : State) (r : Reg) (v : Word) (rest : List Turn), s.turns = wrTurn r v :: rest → s.core.busy = true →
    (guardedReg r = true →
      step s = .next { s with turns := rest, core := { s.core with evt := s.core.evt ||| 0x10 } }) ∧
    (guardedReg r = false → ∃ t, step s = .next t ∧ ¬ raisedBy .busywr s t)

/-- R173: an instruction that the key state does not admit (the table of R173, `admitted`) sets `SEQ` (bit 3)
and changes nothing else; one that it admits does not set it. -/
def Obligations.SeqFollowsTheAdmissionTable : Prop :=
  ∀ (s : State) (i : Instr), s.core.busy = false →
    (admitted i s.core.kst = false →
      exec i s = .next { s with core := { s.core with evt := s.core.evt ||| 0x08 } }) ∧
    (admitted i s.core.kst = true → ∃ t, exec i s = .next t ∧ ¬ raisedBy .seq s t)

/-- R178, with R171 and R175: the host write that raises an event sets the event's bit and changes nothing else,
but that `INVKEY` and `KEYOVF` also drop the key entry. In particular no result register is written. -/
def Obligations.EventsArePrecise : Prop :=
  ∀ (s t : State) (a : Access) (v : Word) (rest : List Turn) (e : Event),
    s.turns = .write a v :: rest → step s = .next t → raisedBy e s t →
    t.turns = rest ∧ t.reads = s.reads ∧
    (t.core = { s.core with evt := s.core.evt ||| (1#32 <<< e.code) } ∨
     ((e = .invkey ∨ e = .keyovf) ∧ s.core.kst = .keyload ∧
      t.core = { s.core with
        evt := s.core.evt ||| (1#32 <<< e.code),
        kst := .nokey, kh := ⟨0, 0, 0, 0, 0⟩, kbuf := zeroBlock, klen := 0 }))

/-- R177: one host write raises at most one event, and never `DONE`. -/
def Obligations.OneWriteRaisesAtMostOneEvent : Prop :=
  ∀ (s t : State) (a : Access) (v : Word) (rest : List Turn), s.turns = .write a v :: rest → step s = .next t →
    (∀ e e' : Event, raisedBy e s t → raisedBy e' s t → e = e') ∧ ¬ raisedBy .done s t

/-- R170: every engine step sets `DONE`, and nothing else does. -/
def Obligations.DoneIsSetExactlyByTheEngine : Prop :=
  ∀ s t : State, step s = .next t →
    (engineNext s → s.core.busy = true → eventSet .done t.core = true) ∧
    (raisedBy .done s t → engineNext s ∧ s.core.busy = true ∧ t.core.busy = false)

/-- R23: a set event stays set until the host writes 1 to its bit, an accepted CLR or reset. -/
def Obligations.EventsAreSticky : Prop :=
  ∀ (s t : State) (e : Event), step s = .next t → eventSet e s.core = true → eventSet e t.core = false →
    (∃ rest, s.turns = .reset :: rest) ∨
    (∃ a rest, s.turns = .write a 1 :: rest ∧ a.reg = .cmd ∧ s.core.busy = false) ∨
    (∃ a v rest, s.turns = .write a v :: rest ∧ a.reg = .evt ∧ v.getLsbD e.code = true)

/-- R88: a write to `EVT` clears the bits of 5:0 written as 1, leaves the others, ignores bits 31:6, and changes
nothing else; it is performed whether or not `BUSY = 1`. -/
def Obligations.WritingEvtClearsTheBitsWritten : Prop :=
  ∀ (s : State) (v : Word) (rest : List Turn), s.turns = wrTurn .evt v :: rest →
    ∃ evt' : Word, step s = .next { s with turns := rest, core := { s.core with evt := evt' } } ∧
      ∀ k, evt'.getLsbD k = (s.core.evt.getLsbD k && !(decide (k < 6) && v.getLsbD k))

/-- R89: a write to `IE` stores bits 5:0 and zeroes the rest, whether or not `BUSY = 1`; `irq` follows in the same
step; nothing else changes. -/
def Obligations.WritingIeStoresSixBits : Prop :=
  ∀ (s : State) (v : Word) (rest : List Turn), s.turns = wrTurn .ie v :: rest →
    ∃ ie' : Word, step s = .next { s with turns := rest, core := { s.core with ie := ie' } } ∧
      (∀ k, ie'.getLsbD k = (decide (k < 6) && v.getLsbD k)) ∧
      (irq { s.core with ie := ie' } = true ↔ ∃ k < 6, s.core.evt.getLsbD k = true ∧ v.getLsbD k = true)

/-- R176: `irq` is 1 exactly when some event is set and enabled. -/
def Obligations.IrqIsTheOrOfEnabledEvents : Prop :=
  ∀ c : CoreState, irq c = true ↔ ∃ e : Event, c.evt.getLsbD e.code = true ∧ c.ie.getLsbD e.code = true

/-! ### Plain register writes -/

/-- R90: a write to `CTR_HI` or `CTR_LO` while `BUSY = 0` stores the word and changes nothing else; while
`BUSY = 1` it raises `BUSYWR` and the register keeps its value. -/
def Obligations.CounterWritesStoreTheWord : Prop :=
  ∀ (s : State) (v : Word) (rest : List Turn),
    (s.core.busy = false → s.turns = wrTurn .ctrHi v :: rest →
      step s = .next { s with turns := rest, core := { s.core with ctrHi := v } }) ∧
    (s.core.busy = false → s.turns = wrTurn .ctrLo v :: rest →
      step s = .next { s with turns := rest, core := { s.core with ctrLo := v } }) ∧
    (s.core.busy = true → s.turns = wrTurn .ctrHi v :: rest ∨ s.turns = wrTurn .ctrLo v :: rest →
      step s = .next { s with turns := rest, core := { s.core with evt := s.core.evt ||| 0x10 } })

/-- R91: a write to `DIGESTn` while `BUSY = 0` stores the word, leaves the other four, clears both valid flags and
zeroes the code registers, and changes nothing else; while `BUSY = 1` it raises `BUSYWR` only. -/
def Obligations.DigestWritesInvalidateTheResult : Prop :=
  ∀ (s : State) (n : Fin 5) (v : Word) (rest : List Turn), s.turns = wrTurn (.digest n) v :: rest →
    (s.core.busy = false → ∃ d : Words5,
      (∀ m : Fin 5, Words5.get d m = if m = n then v else Words5.get s.core.digest m) ∧
      step s = .next { s with turns := rest, core := { s.core with
        digest := d, digvalid := false, codevalid := false, offset := 0, bin := 0, code := 0, bcd := 0 } }) ∧
    (s.core.busy = true →
      step s = .next { s with turns := rest, core := { s.core with evt := s.core.evt ||| 0x10 } })

/-! ### Immediate commands -/

/-- R85: `NOP` completes and leaves the state as it was; while `BUSY = 1` it raises `BUSYWR`. -/
def Obligations.NopChangesNothing : Prop :=
  ∀ s : State, (s.core.busy = false → exec .nop s = .next s) ∧
    (s.core.busy = true → exec .nop s = .next { s with core := { s.core with evt := s.core.evt ||| 0x10 } })

/-- R86: `CLR` completes with every register, flag and hidden state zero and `irq = 0`; while `BUSY = 1` it is
dropped and raises `BUSYWR`. -/
def Obligations.ClrPutsTheCoreIntoResetState : Prop :=
  ∀ s : State,
    (s.core.busy = false → exec .clr s = .next { s with core := {
      busy := false, kst := .nokey, digvalid := false, codevalid := false, evt := 0, ie := 0, klen := 0,
      ctrHi := 0, ctrLo := 0, digest := ⟨0, 0, 0, 0, 0⟩, offset := 0, bin := 0, code := 0, bcd := 0,
      kbuf := zeroBlock, kh := ⟨0, 0, 0, 0, 0⟩, pend := none } }) ∧
    (s.core.busy = true → exec .clr s = .next { s with core := { s.core with evt := s.core.evt ||| 0x10 } }) ∧
    (∀ t, s.core.busy = false → exec .clr s = .next t → irq t.core = false)

/-- R96: `KEYSTART` completes in every key state: it starts an empty key with `KH = IV`, zeroes the old key
material, the digest and the code, and leaves `CTR_HI`, `CTR_LO`, `EVT`, `IE` and everything else as they were. -/
def Obligations.KeystartBeginsAnEmptyKey : Prop :=
  ∀ s : State, (s.core.busy = false →
    exec .keystart s = .next { s with core := { s.core with
      kbuf := zeroBlock, kh := ⟨0x67452301, 0xEFCDAB89, 0x98BADCFE, 0x10325476, 0xC3D2E1F0⟩,
      klen := 0, kst := .keyload, digest := ⟨0, 0, 0, 0, 0⟩, digvalid := false,
      offset := 0, bin := 0, code := 0, bcd := 0, codevalid := false } }) ∧
    (s.core.busy = true → exec .keystart s = .next { s with core := { s.core with evt := s.core.evt ||| 0x10 } })

/-! ### Key entry -/

/-- R98, R77: a `KEYIN` write that the key entry admits completes with the byte at index `KLEN mod 64` of the
buffer and `KLEN` one higher; when the buffer was full it is first compressed into `KH` and zeroed. Bits 31:8
have no effect. Nothing else changes. The other three cases of R98 are stated too: `SEQ`, `BUSYWR`, and `KEYOVF` of R175, which
abandons the key entry. -/
def Obligations.KeyinAppendsTheByte : Prop :=
  ∀ (s : State) (ign : BitVec 24) (b : Byte),
    (s.core.busy = false → s.core.kst = .keyload → s.core.klen.toNat < 2 ^ 32 - 1 →
      ∃ (buf : Block) (h : Words5),
        exec (.keyin ign b) s = .next { s with core := { s.core with
          klen := BitVec.ofNat 32 (s.core.klen.toNat + 1), kbuf := buf, kh := h } } ∧
        h = (if 64 ≤ s.core.klen.toNat ∧ s.core.klen.toNat % 64 = 0
              then compress s.core.kh s.core.kbuf else s.core.kh) ∧
        ∀ j : Fin 64, buf[j] =
          if j.val = s.core.klen.toNat % 64 then b
          else if 64 ≤ s.core.klen.toNat ∧ s.core.klen.toNat % 64 = 0 then 0
          else s.core.kbuf[j]) ∧
    (s.core.busy = false → s.core.kst ≠ .keyload →
      exec (.keyin ign b) s = .next { s with core := { s.core with evt := s.core.evt ||| 0x08 } }) ∧
    (s.core.busy = false → s.core.kst = .keyload → s.core.klen.toNat = 2 ^ 32 - 1 →
      exec (.keyin ign b) s = .next { s with core := { s.core with
        evt := s.core.evt ||| 0x20, kst := .nokey, kh := ⟨0, 0, 0, 0, 0⟩, kbuf := zeroBlock, klen := 0 } }) ∧
    (s.core.busy = true →
      exec (.keyin ign b) s = .next { s with core := { s.core with evt := s.core.evt ||| 0x10 } })

/-- R101: `KEYEND` with at least one byte entered is accepted: `BUSY <- 1; PEND <- 3`, and nothing else changes;
the three other outcomes of R101 are stated too: `SEQ`, `BUSYWR`, and `INVKEY` of R171, which drops the key entry and
starts no engine command. -/
def Obligations.KeyendIsAcceptedWithAKey : Prop :=
  ∀ s : State,
    (s.core.busy = false → s.core.kst = .keyload → s.core.klen ≠ 0 →
      exec .keyend s = .next { s with core := { s.core with busy := true, pend := some .keyend } }) ∧
    (s.core.busy = false → s.core.kst = .keyload → s.core.klen = 0 →
      exec .keyend s = .next { s with core := { s.core with
        evt := s.core.evt ||| 0x02, kst := .nokey, kh := ⟨0, 0, 0, 0, 0⟩, kbuf := zeroBlock, klen := 0 } }) ∧
    (s.core.busy = false → s.core.kst ≠ .keyload →
      exec .keyend s = .next { s with core := { s.core with evt := s.core.evt ||| 0x08 } }) ∧
    (s.core.busy = true →
      exec .keyend s = .next { s with core := { s.core with evt := s.core.evt ||| 0x10 } })

/-- R104 with R60: the completion of KEYEND. A key of at most 64 bytes stays in the buffer; a longer one is
finished by `SHA1Fin` over the last `r` bytes and followed by 44 zero bytes. `KH <- 0`, `KST <- KEYREADY`,
`BUSY <- 0`, `PEND <- 0`, `DONE` set; nothing else changes, `KLEN` in particular. -/
def Obligations.KeyendCompletionFormsTheKeyBlock : Prop :=
  ∀ s : State, engineNext s → s.core.busy = true → s.core.pend = some .keyend →
    ∃ buf : Block,
      step s = .next { s with turns := s.turns.tail, core := { s.core with
        kbuf := buf, kh := ⟨0, 0, 0, 0, 0⟩, kst := .keyready,
        busy := false, pend := none, evt := s.core.evt ||| 0x01 } } ∧
      (s.core.klen.toNat ≤ 64 → buf = s.core.kbuf) ∧
      (64 < s.core.klen.toNat → buf.toList =
        sha1Fin s.core.kh (s.core.kbuf.toList.take ((s.core.klen.toNat - 1) % 64 + 1)) s.core.klen.toNat
          ++ List.replicate 44 0)

/-- R99: KEYSTART leaves the state of an empty key, and each accepted `KEYIN` write of a byte turns the state of
the key `k` into that of `k` with the byte at its end. -/
def Obligations.KeyEntryTracksTheKeyBytes : Prop :=
  (∀ s : State, s.core.busy = false → ∃ t, exec .keystart s = .next t ∧ KeyEntered [] t.core ∧
    t.core.kst = .keyload ∧ t.core.busy = false) ∧
  (∀ (s : State) (k : List Byte) (ign : BitVec 24) (b : Byte), s.core.busy = false → s.core.kst = .keyload →
    KeyEntered k s.core → k.length < 2 ^ 32 - 1 →
    ∃ t, exec (.keyin ign b) s = .next t ∧ KeyEntered (k ++ [b]) t.core ∧ t.core.kst = .keyload ∧
      t.core.busy = false)

/-- R105: after the completion of KEYEND the buffer holds `K0(K)`, for every key length from 1 to `2^32 - 1`. -/
def Obligations.KeyendCompletionYieldsK0 : Prop :=
  ∀ (s : State) (k : List Byte), engineNext s → s.core.busy = true → s.core.pend = some .keyend →
    KeyEntered k s.core → 1 ≤ k.length →
    ∃ t, step s = .next t ∧ t.core.kst = .keyready ∧ KeyReady k t.core

/-! ### SHA-1 and HMAC -/

/-- R112 to R116: the compression. The block is read as sixteen big-endian words, the schedule follows its
recurrence, each of the eighty rounds follows its own, and the working variables are added to the chaining
value. The two sequences `W` and `V` are determined by what is said of them. -/
def Obligations.CompressFollowsItsRounds : Prop :=
  ∀ (h : Words5) (b : Block), ∃ (W : Nat → Word) (V : Nat → Words5),
    (∀ t < 16, (W t).toNat = (b.toList.getD (4 * t) 0).toNat * 2 ^ 24
      + (b.toList.getD (4 * t + 1) 0).toNat * 2 ^ 16
      + (b.toList.getD (4 * t + 2) 0).toNat * 2 ^ 8
      + (b.toList.getD (4 * t + 3) 0).toNat) ∧
    (∀ t, 16 ≤ t → t < 80 →
      W t = (W (t - 3) ^^^ W (t - 8) ^^^ W (t - 14) ^^^ W (t - 16)).rotateLeft 1) ∧
    V 0 = h ∧
    (∀ t < 80, ∃ f k : Word,
      V (t + 1) = ⟨(V t).w0.rotateLeft 5 + f + (V t).w4 + k + W t, (V t).w0, (V t).w1.rotateLeft 30,
        (V t).w2, (V t).w3⟩ ∧
      (t ≤ 19 → f = ((V t).w1 &&& (V t).w2) ||| (~~~ (V t).w1 &&& (V t).w3) ∧ k = 0x5A827999) ∧
      (20 ≤ t → t ≤ 39 → f = (V t).w1 ^^^ (V t).w2 ^^^ (V t).w3 ∧ k = 0x6ED9EBA1) ∧
      (40 ≤ t → t ≤ 59 →
        f = ((V t).w1 &&& (V t).w2) ||| ((V t).w1 &&& (V t).w3) ||| ((V t).w2 &&& (V t).w3) ∧
        k = 0x8F1BBCDC) ∧
      (60 ≤ t → f = (V t).w1 ^^^ (V t).w2 ^^^ (V t).w3 ∧ k = 0xCA62C1D6)) ∧
    compress h b = ⟨h.w0 + (V 80).w0, h.w1 + (V 80).w1, h.w2 + (V 80).w2, h.w3 + (V 80).w3,
      h.w4 + (V 80).w4⟩

/-- R117: the padding of a tail of at most 64 bytes is the tail, 0x80, zero bytes and the bit length in 8 bytes,
cut into whole blocks: one when the tail has at most 55 bytes, else two. -/
def Obligations.PaddingFillsOneOrTwoBlocks : Prop :=
  ∀ (tail : List Byte) (total : Nat), tail.length ≤ 64 → total < 2 ^ 61 →
    ∃ z, z < 64 ∧ (tail.length + 1 + z) % 64 = 56 ∧
      (padBlocks tail total).flatMap (fun b => b.toList) =
        tail ++ [0x80] ++ List.replicate z 0 ++ bytes64 (BitVec.ofNat 64 (8 * total)) ∧
      (tail.length ≤ 55 → (padBlocks tail total).length = 1) ∧
      (56 ≤ tail.length → (padBlocks tail total).length = 2)

/-- R121, R122: `HMAC8` is four compressions of four blocks: the key block with every byte xored with 0x36, the message
padded with the bit length 576, the key block xored with 0x5C, the inner hash padded with the bit length 672; and on
the key block of a key it computes the HMAC of that key, for every key and every 8-byte message. -/
def Obligations.HmacOfEightBytesIsHmac : Prop :=
  (∀ (k0 : Block) (m : List Byte), m.length = 8 →
    ∃ (iv inner : Words5) (b1 b2 b3 b4 : Block),
      iv = ⟨0x67452301, 0xEFCDAB89, 0x98BADCFE, 0x10325476, 0xC3D2E1F0⟩ ∧
      b1.toList = k0.toList.map (fun x => x ^^^ 0x36) ∧
      b2.toList = m ++ [0x80] ++ List.replicate 47 0 ++ [0, 0, 0, 0, 0, 0, 0x02, 0x40] ∧
      b3.toList = k0.toList.map (fun x => x ^^^ 0x5C) ∧
      inner = compress (compress iv b1) b2 ∧
      b4.toList = bytesOfWords inner ++ [0x80] ++ List.replicate 35 0 ++ [0, 0, 0, 0, 0, 0, 0x02, 0xA0] ∧
      hmac8 k0 m = compress (compress iv b3) b4) ∧
  (∀ (k m : List Byte), m.length = 8 → bytesOfWords (hmac8 (keyBlock k) m) = hmac k m)

/-! ### HMAC, TRUNC and GEN -/

/-- R125, R150: with a ready key `HMAC` and `GEN` are accepted: the digest, the code and both valid flags are
zeroed, `BUSY <- 1` and `PEND` takes the opcode; nothing else changes. Without a ready key they raise `SEQ` and
nothing else changes, the old results in particular; while `BUSY = 1` they raise `BUSYWR` only. -/
def Obligations.HmacAndGenAreAcceptedWithAReadyKey : Prop :=
  ∀ (s : State) (i : Instr) (p : EngineCmd), (i = .hmac ∧ p = .hmac) ∨ (i = .gen ∧ p = .gen) →
    (s.core.busy = false → s.core.kst = .keyready →
      exec i s = .next { s with core := { s.core with
        digest := ⟨0, 0, 0, 0, 0⟩, digvalid := false, offset := 0, bin := 0, code := 0, bcd := 0,
        codevalid := false, busy := true, pend := some p } }) ∧
    (s.core.busy = false → s.core.kst ≠ .keyready →
      exec i s = .next { s with core := { s.core with evt := s.core.evt ||| 0x08 } }) ∧
    (s.core.busy = true →
      exec i s = .next { s with core := { s.core with evt := s.core.evt ||| 0x10 } })

/-- R126, R124 with R60: the completion of HMAC. The digest registers take `HMAC8(KBUF, M)` of the counter
message, `DIGVALID <- 1`, the key is consumed, `BUSY <- 0`, `PEND <- 0`, `DONE` is set; nothing else changes. -/
def Obligations.HmacCompletionWritesTheDigest : Prop :=
  ∀ s : State, engineNext s → s.core.busy = true → s.core.pend = some .hmac →
    step s = .next { s with turns := s.turns.tail, core := { s.core with
      digest := hmac8 s.core.kbuf (bytes64 (s.core.ctrHi ++ s.core.ctrLo)), digvalid := true,
      kbuf := zeroBlock, kh := ⟨0, 0, 0, 0, 0⟩, klen := 0, kst := .nokey,
      busy := false, pend := none, evt := s.core.evt ||| 0x01 } }

/-- R143: `TRUNC` is accepted in every key state and whatever `DIGVALID` is: the code registers and `CODEVALID`
are zeroed, `BUSY <- 1; PEND <- 5`; nothing else changes. While `BUSY = 1` it raises `BUSYWR` only. -/
def Obligations.TruncIsAcceptedInEveryKeyState : Prop :=
  ∀ s : State,
    (s.core.busy = false → exec .trunc s = .next { s with core := { s.core with
      offset := 0, bin := 0, code := 0, bcd := 0, codevalid := false, busy := true, pend := some .trunc } }) ∧
    (s.core.busy = true → exec .trunc s = .next { s with core := { s.core with evt := s.core.evt ||| 0x10 } })

/-- R144, R142 with R60: the completion of TRUNC. `OFFSET`, `BIN`, `CODE`, `BCD` take the truncation of the
digest registers, `CODEVALID <- 1`, `BUSY <- 0`, `PEND <- 0`, `DONE` is set; nothing else changes, the digest,
`DIGVALID` and the key state in particular. -/
def Obligations.TruncCompletionWritesTheCode : Prop :=
  ∀ s : State, engineNext s → s.core.busy = true → s.core.pend = some .trunc →
    ∃ o b c d : Word,
      step s = .next { s with turns := s.turns.tail, core := { s.core with
        offset := o, bin := b, code := c, bcd := d, codevalid := true,
        busy := false, pend := none, evt := s.core.evt ||| 0x01 } } ∧
      o.toNat = s.core.digest.w4.toNat % 16 ∧
      b.toNat = (digestNumber s.core.digest).toNat / 2 ^ (128 - 8 * o.toNat) % 2 ^ 31 ∧
      c.toNat = b.toNat % 1000000 ∧
      d.toNat = 16 ^ 5 * (c.toNat / 10 ^ 5 % 10) + 16 ^ 4 * (c.toNat / 10 ^ 4 % 10)
        + 16 ^ 3 * (c.toNat / 10 ^ 3 % 10) + 16 ^ 2 * (c.toNat / 10 ^ 2 % 10)
        + 16 * (c.toNat / 10 % 10) + c.toNat % 10

/-- R151: the completion of GEN does both halves in the one step: the digest of HMAC, then the truncation of that
new digest; the key is consumed and `DONE` set once; nothing else changes. -/
def Obligations.GenCompletionWritesDigestAndCode : Prop :=
  ∀ (s : State) (d : Words5), engineNext s → s.core.busy = true → s.core.pend = some .gen →
    d = hmac8 s.core.kbuf (bytes64 (s.core.ctrHi ++ s.core.ctrLo)) →
    step s = .next { s with turns := s.turns.tail, core := { s.core with
      digest := d, digvalid := true,
      kbuf := zeroBlock, kh := ⟨0, 0, 0, 0, 0⟩, klen := 0, kst := .nokey,
      offset := BitVec.ofNat 32 (truncOffset d), bin := truncBin d, code := truncCode d, bcd := truncBcd d,
      codevalid := true, busy := false, pend := none, evt := s.core.evt ||| 0x01 } }

/-- R152: from the same idle state with a ready key, `cmd GEN; wait` and `cmd HMAC; wait; cmd TRUNC; wait` end in
the same state of the core, wherever the engine's steps fall: `ts` and `us` are any schedules that run the two
scripts (log entry 6). -/
def Obligations.GenIsHmacThenTrunc : Prop :=
  ∀ (s : State) (p q r : Nat) (ts us : List Turn), s.core.busy = false → s.core.kst = .keyready →
    hostTurns ts = [cmdTurn .gen, .poll p] →
    hostTurns us = [cmdTurn .hmac, .poll q, cmdTurn .trunc, .poll r] →
    ∃ t u : State,
      Reaches { s with turns := ts } t ∧ t.turns = [] ∧
      Reaches { s with turns := us } u ∧ u.turns = [] ∧
      t.core.busy = false ∧ t.core = u.core

/-! ### Truncation -/

/-- R136, R137: the offset is the low nibble of `DIGEST4`; the four bytes are big-endian, and they are the 32 bits
`D[159 - 8·offset : 128 - 8·offset]` of the digest read as one number; at a multiple of 4 they are a register,
and otherwise they span two. -/
def Obligations.ExtractionIsASliceOfTheDigest : Prop :=
  ∀ d : Words5,
    truncOffset d = d.w4.toNat % 16 ∧
    (truncWindow d).toNat = ((digestBytes d).getD (truncOffset d) 0).toNat * 2 ^ 24
      + ((digestBytes d).getD (truncOffset d + 1) 0).toNat * 2 ^ 16
      + ((digestBytes d).getD (truncOffset d + 2) 0).toNat * 2 ^ 8
      + ((digestBytes d).getD (truncOffset d + 3) 0).toNat ∧
    truncWindow d = (digestNumber d >>> (128 - 8 * truncOffset d)).setWidth 32 ∧
    (∀ w : Fin 5, truncOffset d = 4 * w.val → truncWindow d = Words5.get d w) ∧
    (∀ (w : Fin 4) (i : Nat), 1 ≤ i → i ≤ 3 → truncOffset d = 4 * w.val + i →
      truncWindow d = (Words5.get d w.castSucc <<< (8 * i)) ||| (Words5.get d w.succ >>> (32 - 8 * i)))

/-- R138: the extraction never reads past byte 18, so byte 19, which gives the offset, is none of the four. -/
def Obligations.ExtractionStaysInsideTheDigest : Prop :=
  ∀ d : Words5, truncOffset d ≤ 15 ∧ truncOffset d + 4 ≤ 19 ∧
    ∀ e : Words5, truncOffset e = truncOffset d →
      (∀ i < 19, (digestBytes e).getD i 0 = (digestBytes d).getD i 0) → truncWindow e = truncWindow d

/-- R139, R140: `BIN` is `P` without bit 31, below `2^31`; `CODE` is its least non-negative remainder modulo 10^6,
with a quotient of at most 2147. -/
def Obligations.CodeIsBinModuloAMillion : Prop :=
  ∀ d : Words5, (truncBin d).toNat = (truncWindow d).toNat % 2 ^ 31 ∧
    (truncCode d).toNat ≤ 999999 ∧
    ∃ q ≤ 2147, (truncBin d).toNat = 1000000 * q + (truncCode d).toNat

/-- R141: `BCD` holds the six decimal digits of a code below 10^6, four bits each, leading digit in bits 23:20. -/
def Obligations.BcdHoldsTheSixDigits : Prop :=
  ∀ code : Word, code.toNat < 1000000 →
    (bcdWord code).toNat < 2 ^ 24 ∧
    (∀ i < 6, (bcdWord code).toNat / 16 ^ i % 16 = code.toNat / 10 ^ i % 10) ∧
    code.toNat = (((((bcdWord code).toNat / 16 ^ 5 % 16) * 10 + (bcdWord code).toNat / 16 ^ 4 % 16) * 10
      + (bcdWord code).toNat / 16 ^ 3 % 16) * 10 + (bcdWord code).toNat / 16 ^ 2 % 16) * 100
      + ((bcdWord code).toNat / 16 % 16) * 10 + (bcdWord code).toNat % 16

/-- R158: the host renders six characters, each a decimal digit, leading zeros included. -/
def Obligations.RenderedCodeIsSixDigits : Prop :=
  ∀ code : Word, code.toNat < 1000000 →
    (renderCode (bcdWord code)).length = 6 ∧
    ∀ j < 6, ((renderCode (bcdWord code)).getD j 0).toNat = 0x30 + code.toNat / 10 ^ (5 - j) % 10

/-! ### Whole-machine rules -/

/-- R43: the only steps that change `KST`, each with the key state it leads to. -/
def Obligations.KeyStateChangesOnlyByTheTable : Prop :=
  ∀ s t : State, step s = .next t → t.core.kst ≠ s.core.kst →
    ((∃ rest, s.turns = .reset :: rest) ∧ t.core.kst = .nokey) ∨
    (engineNext s ∧ s.core.busy = true ∧ s.core.pend = some .keyend ∧ t.core.kst = .keyready) ∨
    (engineNext s ∧ s.core.busy = true ∧ (s.core.pend = some .hmac ∨ s.core.pend = some .gen) ∧
      t.core.kst = .nokey) ∨
    (∃ a v rest, s.turns = .write a v :: rest ∧ a.wf = true ∧ s.core.busy = false ∧
      ((a.reg = .cmd ∧ v = 0x02 ∧ t.core.kst = .keyload) ∨
       (a.reg = .cmd ∧ v = 0x01 ∧ t.core.kst = .nokey) ∨
       (a.reg = .keyin ∧ s.core.kst = .keyload ∧ s.core.klen = 0xFFFFFFFF ∧ t.core.kst = .nokey) ∨
       (a.reg = .cmd ∧ v = 0x03 ∧ s.core.kst = .keyload ∧ s.core.klen = 0 ∧ t.core.kst = .nokey)))

/-- R43, R61 item 5: while `BUSY = 1` no step but the engine's own and reset changes what the engine works on, and
the command stays pending. -/
def Obligations.EngineInputsAreFrozenWhileBusy : Prop :=
  ∀ s t : State, step s = .next t → s.core.busy = true → ¬ engineNext s → (∀ rest, s.turns ≠ .reset :: rest) →
    t.core.kst = s.core.kst ∧ t.core.klen = s.core.klen ∧ t.core.kbuf = s.core.kbuf ∧ t.core.kh = s.core.kh ∧
    t.core.ctrHi = s.core.ctrHi ∧ t.core.ctrLo = s.core.ctrLo ∧ t.core.digest = s.core.digest ∧
    t.core.busy = true ∧ t.core.pend = s.core.pend

/-- R61 item 4, R42: an idle core becomes busy only by the host writing an engine command to `CMD`. -/
def Obligations.BusyRisesOnlyByAnEngineCommand : Prop :=
  ∀ s t : State, step s = .next t → s.core.busy = false → t.core.busy = true →
    ∃ a v rest, s.turns = .write a v :: rest ∧ a.wf = true ∧ a.reg = .cmd ∧
      (v = 0x03 ∨ v = 0x04 ∨ v = 0x05 ∨ v = 0x06) ∧
      ∃ p, t.core.pend = some p ∧ (p.opcode).toNat = v.toNat

/-- R27: the counter registers change only by the host's own write to them while `BUSY = 0`, by an accepted CLR
and by reset: no other command and no engine step changes them. -/
def Obligations.CounterChangesOnlyByItsOwnWrites : Prop :=
  ∀ s t : State, step s = .next t → (t.core.ctrHi ≠ s.core.ctrHi ∨ t.core.ctrLo ≠ s.core.ctrLo) →
    (∃ rest, s.turns = .reset :: rest) ∨
    (∃ a v rest, s.turns = .write a v :: rest ∧ s.core.busy = false ∧
      ((a.reg = .cmd ∧ v = 0x01) ∨
       (a.reg = .ctrHi ∧ t.core.ctrHi = v ∧ t.core.ctrLo = s.core.ctrLo) ∨
       (a.reg = .ctrLo ∧ t.core.ctrLo = v ∧ t.core.ctrHi = s.core.ctrHi)))

/-- R40, R181: the hidden key material cannot be read. Two states that differ only in `KBUF` and `KH` take the
same step, return the same values to the host and still differ only in those, unless the step is the completion
of HMAC or GEN, which uses the key. -/
def Obligations.KeyMaterialIsHiddenFromTheHost : Prop :=
  ∀ s s' t : State, s'.turns = s.turns → s'.reads = s.reads → AgreeButHidden s.core s'.core →
    ¬ (engineNext s ∧ (s.core.pend = some .hmac ∨ s.core.pend = some .gen)) →
    step s = .next t →
    ∃ t', step s' = .next t' ∧ t'.turns = t.turns ∧ t'.reads = t.reads ∧ AgreeButHidden t.core t'.core

/-! ### The host's side -/

/-- R155: the time step is the floor of the seconds divided by 30, for every time whose quotient fits 64 bits;
outside that the host has nothing to present, and no `totp` line has a script (log entry 14): the counter it writes
never wraps. -/
def Obligations.TimeStepIsTheFloorOfThirtySeconds : Prop :=
  (∀ t : Nat, t < 30 * 2 ^ 64 → ∃ n, timeStep t = some n ∧ 30 * n.toNat ≤ t ∧ t < 30 * n.toNat + 30) ∧
  (∀ t : Nat, 30 * 2 ^ 64 ≤ t → timeStep t = none) ∧
  (∀ t : Int, t < 0 → timeStep t = none) ∧
  (∀ (text : List Byte) (t : Int) (p q : Nat),
    (t < 0 ∨ 30 * 2 ^ 64 ≤ t → (HostLine.totp text t p q).turns = none) ∧
    (0 ≤ t → t < 30 * 2 ^ 64 → ∃ n : BitVec 64, (n.toNat : Int) = t / 30 ∧
      (HostLine.totp text t p q).turns = some (keyTurns text p ++
        [wrTurn .ctrHi (BitVec.ofNat 32 (n.toNat / 2 ^ 32)), wrTurn .ctrLo (BitVec.ofNat 32 (n.toNat % 2 ^ 32)),
          cmdTurn .gen, .poll q, rdTurn .status, rdTurn .evt, rdTurn .bcd])))

/-- R157: from any state that meets the invariant, with no reset and no other host, the script of R156 for a key
of 1 to `2^32 - 1` bytes ends, with the HMAC-SHA1 of the counter in the digest registers, its truncation in
`OFFSET`, `BIN`, `CODE` and `BCD`, only `DONE` set, and the host's result the six digits. It holds wherever the
engine's steps fall and whatever the core did before: `ts` and `us` are any schedules that run the two parts of
the script, with the engine's turns anywhere among the host's, between KEYEND and the read of `EVT` and before
the first read of a `wait` too (log entry 6). -/
def Obligations.InvocationComputesTheCode : Prop :=
  ∀ (s : State) (k : List Byte) (counter : BitVec 64) (p : Nat) (ts : List Turn),
    Inv s.core → 1 ≤ k.length → k.length < 2 ^ 32 → hostTurns ts = invocationStart p k →
    ∃ (u : State) (e : Word),
      Reaches { s with turns := ts } u ∧ u.turns = [] ∧ u.reads.head? = some e ∧ (e = 0 ∨ e = 0x01) ∧
      ∀ (q r : Nat) (us : List Turn), hostTurns us = invocationRest e counter q r →
        ∃ (t : State) (status bcd : Word) (d : Words5),
          Reaches { u with turns := us } t ∧ t.turns = [] ∧
          t.reads.take 2 = [bcd, status] ∧
          t.core.busy = false ∧ t.core.digest = d ∧
          digestBytes d = hmac k (bytes64 counter) ∧
          t.core.offset = BitVec.ofNat 32 (truncOffset d) ∧ t.core.bin = truncBin d ∧
          t.core.code = truncCode d ∧ t.core.bcd = truncBcd d ∧ bcd = truncBcd d ∧
          t.core.evt = 0x01 ∧ resultUsable t.core.evt = true ∧
          invocationResult e status bcd = .code (renderCode (truncBcd d))

/-- R156, R159: for the empty key the script ends with `InvalidKey`: no result, no key material, the event
acknowledged, and the core ready for the next KEYSTART, wherever the engine's steps fall (log entry 6). -/
def Obligations.InvocationRefusesTheEmptyKey : Prop :=
  ∀ (s : State) (counter : BitVec 64) (p : Nat) (ts : List Turn), Inv s.core →
    hostTurns ts = invocationStart p [] →
    ∃ (u : State) (e : Word),
      Reaches { s with turns := ts } u ∧ u.turns = [] ∧ u.reads.head? = some e ∧
      (∀ status bcd : Word, invocationResult e status bcd = .invalidKey) ∧
      ∀ (q r : Nat) (us : List Turn), hostTurns us = invocationRest e counter q r →
        ∃ t : State, Reaches { u with turns := us } t ∧ t.turns = [] ∧
          t.core.busy = false ∧ t.core.kst = .nokey ∧ t.core.codevalid = false ∧ t.core.evt = 0 ∧ NoKey t.core
end

