-- ==== Sys2Proof/Laws/Bytes.lean ====
section
/-! SUPPORT. Lengths and contents of byte sequences and blocks (00_scope.md R12). -/

namespace Sys2Proof.Machine

@[simp] theorem bytes32_length (w : Word) : (bytes32 w).length = 4 := rfl
@[simp] theorem bytes64_length (n : BitVec 64) : (bytes64 n).length = 8 := rfl
@[simp] theorem bytesOfWords_length (h : Words5) : (bytesOfWords h).length = 20 := rfl

@[simp] theorem blockOf_toList (s : List Byte) : (blockOf s).toList = (s ++ List.replicate 64 0).take 64 := rfl

/-- A block read back from its own bytes. -/
theorem blockOf_block (b : Block) : blockOf b.toList = b := by
  apply Vector.toList_inj.mp
  simp

/-- Bytes beyond the 64th do not matter. -/
theorem blockOf_append {s : List Byte} (h : s.length = 64) (t : List Byte) : blockOf (s ++ t) = blockOf s := by
  apply Vector.toList_inj.mp
  simp [h]

/-- Trailing zero bytes are what a block is filled up with. -/
theorem blockOf_append_zeros (s : List Byte) (n : Nat) : blockOf (s ++ List.replicate n 0) = blockOf s := by
  apply Vector.toList_inj.mp
  simp only [blockOf_toList, List.append_assoc, List.replicate_append_replicate]
  apply List.ext_getElem?
  intro i
  simp only [List.getElem?_take, List.getElem?_append, List.getElem?_replicate]
  split
  · split
    · rfl
    · simp only [show i - s.length < n + 64 by omega, show i - s.length < 64 by omega, if_true]
  · rfl

@[simp] theorem blockOf_nil : blockOf [] = zeroBlock := by
  apply Vector.toList_inj.mp
  simp [zeroBlock]

/-- `BE32(bytes32(w)) = w` (R12). -/
theorem be32_bytes32 (w : Word) :
    be32 (w.extractLsb' 24 8) (w.extractLsb' 16 8) (w.extractLsb' 8 8) (w.extractLsb' 0 8) = w := by
  unfold be32
  ext i hi
  simp only [BitVec.getElem_append, BitVec.getElem_extractLsb']
  split
  · simp_all [BitVec.getLsbD_eq_getElem]
  · split
    · rw [show 8 + (i - 8) = i by omega]; simp [BitVec.getLsbD_eq_getElem, hi]
    · split
      · rw [show 16 + (i - 8 - 8) = i by omega]; simp [BitVec.getLsbD_eq_getElem, hi]
      · rw [show 24 + (i - 8 - 8 - 8) = i by omega]; simp [BitVec.getLsbD_eq_getElem, hi]

end Sys2Proof.Machine
end

