-- ==== Sys2Proof/Laws/Encoding.lean ====
section
/-! SUPPORT. The register map as a bijection on the word index, and what a well-formed access is. -/

namespace Sys2Proof

theorem Reg.ofIndex_index (r : Reg) : Reg.ofIndex r.index = r := by
  cases r with
  | digest n => revert n; decide
  | reserved k => revert k; decide
  | _ => rfl

theorem Reg.index_ofIndex (i : BitVec 5) : (Reg.ofIndex i).index = i := by
  revert i; decide

/-- A well-formed access is a whole aligned word of the window (20_memory.md R50, R52). -/
theorem Access.wf_iff (a : Access) : a.wf = true ↔ a.bytes = 4 ∧ a.offset % 4 = 0 ∧ a.offset < 128 := by
  simp only [Access.wf, Access.wholeWord, Access.inWindow, Bool.and_eq_true, beq_iff_eq, decide_eq_true_eq,
    and_assoc, Config.accessBytes, Config.windowBytes]

end Sys2Proof
end

