-- ==== Sys2Proof/Laws/State.lean ====
section
/-! SUPPORT. One lemma for each field of the state after each update that the meanings share, true by rfl, so that
no proof unfolds a record update. -/

namespace Sys2Proof.Machine

/-! ### raise -/

@[simp] theorem raise_busy (e : Event) (c : CoreState) : (raise e c).busy = c.busy := rfl
@[simp] theorem raise_kst (e : Event) (c : CoreState) : (raise e c).kst = c.kst := rfl
@[simp] theorem raise_digvalid (e : Event) (c : CoreState) : (raise e c).digvalid = c.digvalid := rfl
@[simp] theorem raise_codevalid (e : Event) (c : CoreState) : (raise e c).codevalid = c.codevalid := rfl
@[simp] theorem raise_evt (e : Event) (c : CoreState) : (raise e c).evt = c.evt ||| e.mask := rfl
@[simp] theorem raise_ie (e : Event) (c : CoreState) : (raise e c).ie = c.ie := rfl
@[simp] theorem raise_klen (e : Event) (c : CoreState) : (raise e c).klen = c.klen := rfl
@[simp] theorem raise_ctrHi (e : Event) (c : CoreState) : (raise e c).ctrHi = c.ctrHi := rfl
@[simp] theorem raise_ctrLo (e : Event) (c : CoreState) : (raise e c).ctrLo = c.ctrLo := rfl
@[simp] theorem raise_digest (e : Event) (c : CoreState) : (raise e c).digest = c.digest := rfl
@[simp] theorem raise_offset (e : Event) (c : CoreState) : (raise e c).offset = c.offset := rfl
@[simp] theorem raise_bin (e : Event) (c : CoreState) : (raise e c).bin = c.bin := rfl
@[simp] theorem raise_code (e : Event) (c : CoreState) : (raise e c).code = c.code := rfl
@[simp] theorem raise_bcd (e : Event) (c : CoreState) : (raise e c).bcd = c.bcd := rfl
@[simp] theorem raise_kbuf (e : Event) (c : CoreState) : (raise e c).kbuf = c.kbuf := rfl
@[simp] theorem raise_kh (e : Event) (c : CoreState) : (raise e c).kh = c.kh := rfl
@[simp] theorem raise_pend (e : Event) (c : CoreState) : (raise e c).pend = c.pend := rfl

/-! ### dismiss -/

@[simp] theorem dismiss_busy (v : Word) (c : CoreState) : (dismiss v c).busy = c.busy := rfl
@[simp] theorem dismiss_kst (v : Word) (c : CoreState) : (dismiss v c).kst = c.kst := rfl
@[simp] theorem dismiss_digvalid (v : Word) (c : CoreState) : (dismiss v c).digvalid = c.digvalid := rfl
@[simp] theorem dismiss_codevalid (v : Word) (c : CoreState) : (dismiss v c).codevalid = c.codevalid := rfl
@[simp] theorem dismiss_evt (v : Word) (c : CoreState) : (dismiss v c).evt = evtCleared c.evt v := rfl
@[simp] theorem dismiss_ie (v : Word) (c : CoreState) : (dismiss v c).ie = c.ie := rfl
@[simp] theorem dismiss_klen (v : Word) (c : CoreState) : (dismiss v c).klen = c.klen := rfl
@[simp] theorem dismiss_ctrHi (v : Word) (c : CoreState) : (dismiss v c).ctrHi = c.ctrHi := rfl
@[simp] theorem dismiss_ctrLo (v : Word) (c : CoreState) : (dismiss v c).ctrLo = c.ctrLo := rfl
@[simp] theorem dismiss_digest (v : Word) (c : CoreState) : (dismiss v c).digest = c.digest := rfl
@[simp] theorem dismiss_offset (v : Word) (c : CoreState) : (dismiss v c).offset = c.offset := rfl
@[simp] theorem dismiss_bin (v : Word) (c : CoreState) : (dismiss v c).bin = c.bin := rfl
@[simp] theorem dismiss_code (v : Word) (c : CoreState) : (dismiss v c).code = c.code := rfl
@[simp] theorem dismiss_bcd (v : Word) (c : CoreState) : (dismiss v c).bcd = c.bcd := rfl
@[simp] theorem dismiss_kbuf (v : Word) (c : CoreState) : (dismiss v c).kbuf = c.kbuf := rfl
@[simp] theorem dismiss_kh (v : Word) (c : CoreState) : (dismiss v c).kh = c.kh := rfl
@[simp] theorem dismiss_pend (v : Word) (c : CoreState) : (dismiss v c).pend = c.pend := rfl

/-! ### clearCode -/

@[simp] theorem clearCode_busy (c : CoreState) : (clearCode c).busy = c.busy := rfl
@[simp] theorem clearCode_kst (c : CoreState) : (clearCode c).kst = c.kst := rfl
@[simp] theorem clearCode_digvalid (c : CoreState) : (clearCode c).digvalid = c.digvalid := rfl
@[simp] theorem clearCode_codevalid (c : CoreState) : (clearCode c).codevalid = false := rfl
@[simp] theorem clearCode_evt (c : CoreState) : (clearCode c).evt = c.evt := rfl
@[simp] theorem clearCode_ie (c : CoreState) : (clearCode c).ie = c.ie := rfl
@[simp] theorem clearCode_klen (c : CoreState) : (clearCode c).klen = c.klen := rfl
@[simp] theorem clearCode_ctrHi (c : CoreState) : (clearCode c).ctrHi = c.ctrHi := rfl
@[simp] theorem clearCode_ctrLo (c : CoreState) : (clearCode c).ctrLo = c.ctrLo := rfl
@[simp] theorem clearCode_digest (c : CoreState) : (clearCode c).digest = c.digest := rfl
@[simp] theorem clearCode_offset (c : CoreState) : (clearCode c).offset = 0 := rfl
@[simp] theorem clearCode_bin (c : CoreState) : (clearCode c).bin = 0 := rfl
@[simp] theorem clearCode_code (c : CoreState) : (clearCode c).code = 0 := rfl
@[simp] theorem clearCode_bcd (c : CoreState) : (clearCode c).bcd = 0 := rfl
@[simp] theorem clearCode_kbuf (c : CoreState) : (clearCode c).kbuf = c.kbuf := rfl
@[simp] theorem clearCode_kh (c : CoreState) : (clearCode c).kh = c.kh := rfl
@[simp] theorem clearCode_pend (c : CoreState) : (clearCode c).pend = c.pend := rfl

/-! ### clearDigest -/

@[simp] theorem clearDigest_busy (c : CoreState) : (clearDigest c).busy = c.busy := rfl
@[simp] theorem clearDigest_kst (c : CoreState) : (clearDigest c).kst = c.kst := rfl
@[simp] theorem clearDigest_digvalid (c : CoreState) : (clearDigest c).digvalid = false := rfl
@[simp] theorem clearDigest_codevalid (c : CoreState) : (clearDigest c).codevalid = c.codevalid := rfl
@[simp] theorem clearDigest_evt (c : CoreState) : (clearDigest c).evt = c.evt := rfl
@[simp] theorem clearDigest_ie (c : CoreState) : (clearDigest c).ie = c.ie := rfl
@[simp] theorem clearDigest_klen (c : CoreState) : (clearDigest c).klen = c.klen := rfl
@[simp] theorem clearDigest_ctrHi (c : CoreState) : (clearDigest c).ctrHi = c.ctrHi := rfl
@[simp] theorem clearDigest_ctrLo (c : CoreState) : (clearDigest c).ctrLo = c.ctrLo := rfl
@[simp] theorem clearDigest_digest (c : CoreState) : (clearDigest c).digest = Words5.zero := rfl
@[simp] theorem clearDigest_offset (c : CoreState) : (clearDigest c).offset = c.offset := rfl
@[simp] theorem clearDigest_bin (c : CoreState) : (clearDigest c).bin = c.bin := rfl
@[simp] theorem clearDigest_code (c : CoreState) : (clearDigest c).code = c.code := rfl
@[simp] theorem clearDigest_bcd (c : CoreState) : (clearDigest c).bcd = c.bcd := rfl
@[simp] theorem clearDigest_kbuf (c : CoreState) : (clearDigest c).kbuf = c.kbuf := rfl
@[simp] theorem clearDigest_kh (c : CoreState) : (clearDigest c).kh = c.kh := rfl
@[simp] theorem clearDigest_pend (c : CoreState) : (clearDigest c).pend = c.pend := rfl

/-! ### zeroiseKey -/

@[simp] theorem zeroiseKey_busy (c : CoreState) : (zeroiseKey c).busy = c.busy := rfl
@[simp] theorem zeroiseKey_kst (c : CoreState) : (zeroiseKey c).kst = .nokey := rfl
@[simp] theorem zeroiseKey_digvalid (c : CoreState) : (zeroiseKey c).digvalid = c.digvalid := rfl
@[simp] theorem zeroiseKey_codevalid (c : CoreState) : (zeroiseKey c).codevalid = c.codevalid := rfl
@[simp] theorem zeroiseKey_evt (c : CoreState) : (zeroiseKey c).evt = c.evt := rfl
@[simp] theorem zeroiseKey_ie (c : CoreState) : (zeroiseKey c).ie = c.ie := rfl
@[simp] theorem zeroiseKey_klen (c : CoreState) : (zeroiseKey c).klen = 0 := rfl
@[simp] theorem zeroiseKey_ctrHi (c : CoreState) : (zeroiseKey c).ctrHi = c.ctrHi := rfl
@[simp] theorem zeroiseKey_ctrLo (c : CoreState) : (zeroiseKey c).ctrLo = c.ctrLo := rfl
@[simp] theorem zeroiseKey_digest (c : CoreState) : (zeroiseKey c).digest = c.digest := rfl
@[simp] theorem zeroiseKey_offset (c : CoreState) : (zeroiseKey c).offset = c.offset := rfl
@[simp] theorem zeroiseKey_bin (c : CoreState) : (zeroiseKey c).bin = c.bin := rfl
@[simp] theorem zeroiseKey_code (c : CoreState) : (zeroiseKey c).code = c.code := rfl
@[simp] theorem zeroiseKey_bcd (c : CoreState) : (zeroiseKey c).bcd = c.bcd := rfl
@[simp] theorem zeroiseKey_kbuf (c : CoreState) : (zeroiseKey c).kbuf = zeroBlock := rfl
@[simp] theorem zeroiseKey_kh (c : CoreState) : (zeroiseKey c).kh = Words5.zero := rfl
@[simp] theorem zeroiseKey_pend (c : CoreState) : (zeroiseKey c).pend = c.pend := rfl

/-! ### startEngine -/

@[simp] theorem startEngine_busy (p : EngineCmd) (c : CoreState) : (startEngine p c).busy = true := rfl
@[simp] theorem startEngine_kst (p : EngineCmd) (c : CoreState) : (startEngine p c).kst = c.kst := rfl
@[simp] theorem startEngine_digvalid (p : EngineCmd) (c : CoreState) : (startEngine p c).digvalid = c.digvalid := rfl
@[simp] theorem startEngine_codevalid (p : EngineCmd) (c : CoreState) : (startEngine p c).codevalid = c.codevalid := rfl
@[simp] theorem startEngine_evt (p : EngineCmd) (c : CoreState) : (startEngine p c).evt = c.evt := rfl
@[simp] theorem startEngine_ie (p : EngineCmd) (c : CoreState) : (startEngine p c).ie = c.ie := rfl
@[simp] theorem startEngine_klen (p : EngineCmd) (c : CoreState) : (startEngine p c).klen = c.klen := rfl
@[simp] theorem startEngine_ctrHi (p : EngineCmd) (c : CoreState) : (startEngine p c).ctrHi = c.ctrHi := rfl
@[simp] theorem startEngine_ctrLo (p : EngineCmd) (c : CoreState) : (startEngine p c).ctrLo = c.ctrLo := rfl
@[simp] theorem startEngine_digest (p : EngineCmd) (c : CoreState) : (startEngine p c).digest = c.digest := rfl
@[simp] theorem startEngine_offset (p : EngineCmd) (c : CoreState) : (startEngine p c).offset = c.offset := rfl
@[simp] theorem startEngine_bin (p : EngineCmd) (c : CoreState) : (startEngine p c).bin = c.bin := rfl
@[simp] theorem startEngine_code (p : EngineCmd) (c : CoreState) : (startEngine p c).code = c.code := rfl
@[simp] theorem startEngine_bcd (p : EngineCmd) (c : CoreState) : (startEngine p c).bcd = c.bcd := rfl
@[simp] theorem startEngine_kbuf (p : EngineCmd) (c : CoreState) : (startEngine p c).kbuf = c.kbuf := rfl
@[simp] theorem startEngine_kh (p : EngineCmd) (c : CoreState) : (startEngine p c).kh = c.kh := rfl
@[simp] theorem startEngine_pend (p : EngineCmd) (c : CoreState) : (startEngine p c).pend = some p := rfl

/-! ### finishEngine -/

@[simp] theorem finishEngine_busy (c : CoreState) : (finishEngine c).busy = false := rfl
@[simp] theorem finishEngine_kst (c : CoreState) : (finishEngine c).kst = c.kst := rfl
@[simp] theorem finishEngine_digvalid (c : CoreState) : (finishEngine c).digvalid = c.digvalid := rfl
@[simp] theorem finishEngine_codevalid (c : CoreState) : (finishEngine c).codevalid = c.codevalid := rfl
@[simp] theorem finishEngine_evt (c : CoreState) : (finishEngine c).evt = c.evt ||| Event.mask .done := rfl
@[simp] theorem finishEngine_ie (c : CoreState) : (finishEngine c).ie = c.ie := rfl
@[simp] theorem finishEngine_klen (c : CoreState) : (finishEngine c).klen = c.klen := rfl
@[simp] theorem finishEngine_ctrHi (c : CoreState) : (finishEngine c).ctrHi = c.ctrHi := rfl
@[simp] theorem finishEngine_ctrLo (c : CoreState) : (finishEngine c).ctrLo = c.ctrLo := rfl
@[simp] theorem finishEngine_digest (c : CoreState) : (finishEngine c).digest = c.digest := rfl
@[simp] theorem finishEngine_offset (c : CoreState) : (finishEngine c).offset = c.offset := rfl
@[simp] theorem finishEngine_bin (c : CoreState) : (finishEngine c).bin = c.bin := rfl
@[simp] theorem finishEngine_code (c : CoreState) : (finishEngine c).code = c.code := rfl
@[simp] theorem finishEngine_bcd (c : CoreState) : (finishEngine c).bcd = c.bcd := rfl
@[simp] theorem finishEngine_kbuf (c : CoreState) : (finishEngine c).kbuf = c.kbuf := rfl
@[simp] theorem finishEngine_kh (c : CoreState) : (finishEngine c).kh = c.kh := rfl
@[simp] theorem finishEngine_pend (c : CoreState) : (finishEngine c).pend = none := rfl

/-! ### mapCore -/

@[simp] theorem State.mapCore_core (s : State) (f : CoreState → CoreState) : (s.mapCore f).core = f s.core := rfl
@[simp] theorem State.mapCore_turns (s : State) (f : CoreState → CoreState) : (s.mapCore f).turns = s.turns := rfl
@[simp] theorem State.mapCore_reads (s : State) (f : CoreState → CoreState) : (s.mapCore f).reads = s.reads := rfl

end Sys2Proof.Machine
end

