-- ==== Sys2Proof/Laws/Flags.lean ====
section
/-! SUPPORT. The bits of the event word, one lemma for each way it is written. -/

namespace Sys2Proof.Machine

theorem Event.code_lt (e : Event) : e.code < 6 := by cases e <;> decide

theorem Event.code_injective {e f : Event} (h : e.code = f.code) : e = f := by
  revert h; cases e <;> cases f <;> decide

/-- Raising an event sets its own bit and no other. -/
theorem eventSet_raise (e f : Event) (c : CoreState) :
    eventSet e (raise f c) = (eventSet e c || decide (e = f)) := by
  have h : decide (e = f) = decide (e.code = f.code) := by
    rw [decide_eq_decide]; exact ⟨fun h => by rw [h], Event.code_injective⟩
  simp only [eventSet, raise_evt, Event.mask, BitVec.getLsbD_or, BitVec.getLsbD_shiftLeft, BitVec.getLsbD_one, h]
  congr 1
  rw [Bool.eq_iff_iff]
  have := e.code_lt
  simp
  omega

theorem sixBits_getLsbD (v : Word) (k : Nat) : (sixBits v).getLsbD k = (decide (k < 6) && v.getLsbD k) := by
  by_cases h : k < 32
  · simp [sixBits, BitVec.getLsbD_extractLsb', h]
  · rw [BitVec.getLsbD_of_ge _ _ (by omega), BitVec.getLsbD_of_ge v _ (by omega)]; simp

end Sys2Proof.Machine
end

