-- ==== Sys2Proof/Laws/Ops.lean ====
section
/-! SUPPORT. What each shared operation can do, said once: the guard, the acceptances, the instructions, the engine's
turn, the host's write, and one turn of the schedule. Later proofs cite these and unfold nothing. -/

namespace Sys2Proof.Machine

/-! ### The guard -/

@[simp] theorem guarded_of_busy {f : CoreState → CoreState} {c : CoreState} (h : c.busy = true) :
    guarded f c = raise .busywr c := by simp [guarded, h]

@[simp] theorem guarded_of_idle {f : CoreState → CoreState} {c : CoreState} (h : c.busy = false) :
    guarded f c = f c := by simp [guarded, h]

/-- A guarded write is dropped by a busy core or performed by an idle one. -/
theorem guarded_cases (f : CoreState → CoreState) (c : CoreState) :
    (c.busy = true ∧ guarded f c = raise .busywr c) ∨ (c.busy = false ∧ guarded f c = f c) := by
  cases h : c.busy <;> simp [h]

/-! ### The instructions -/

/-- The change each instruction makes to an idle core. -/
def coreEffect : Instr → CoreState → CoreState
  | .nop       => nopCommand
  | .clr       => clrCommand
  | .keystart  => keyStartCommand
  | .keyend    => keyEndCommand
  | .hmac      => hmacCommand
  | .trunc     => truncCommand
  | .gen       => genCommand
  | .keyin _ b => keyIn b

/-- Every instruction answers a next state, and only its core differs. -/
theorem exec_eq_guarded (i : Instr) (s : State) : exec i s = .next (s.mapCore (guarded (coreEffect i))) := by
  cases i <;> rfl

/-- `KeyIn` has three outcomes (R98). -/
theorem keyIn_cases (b : Byte) (c : CoreState) :
    (c.kst ≠ .keyload ∧ keyIn b c = raise .seq c) ∨
    (c.kst = .keyload ∧ c.klen = Config.klenLimit ∧ keyIn b c = raise .keyovf (zeroiseKey c)) ∨
    (c.kst = .keyload ∧ c.klen ≠ Config.klenLimit ∧ keyIn b c = keyStore b (keyFlush c)) := by
  by_cases hk : c.kst = .keyload
  · by_cases hl : c.klen = Config.klenLimit
    · exact .inr (.inl ⟨hk, hl, by simp [keyIn, hk, hl]⟩)
    · exact .inr (.inr ⟨hk, hl, (if_neg (by simp [hk])).trans (if_neg hl)⟩)
  · simp [keyIn, hk]

/-- The acceptance of `KEYEND` has three outcomes (R101). -/
theorem keyEndCommand_cases (c : CoreState) :
    (c.kst ≠ .keyload ∧ keyEndCommand c = raise .seq c) ∨
    (c.kst = .keyload ∧ c.klen = 0 ∧ keyEndCommand c = raise .invkey (zeroiseKey c)) ∨
    (c.kst = .keyload ∧ c.klen ≠ 0 ∧ keyEndCommand c = startEngine .keyend c) := by
  by_cases hk : c.kst = .keyload
  · by_cases hl : c.klen = 0
    · exact .inr (.inl ⟨hk, hl, by simp [keyEndCommand, hk, hl]⟩)
    · exact .inr (.inr ⟨hk, hl, (if_neg (by simp [hk])).trans (if_neg hl)⟩)
  · simp [keyEndCommand, hk]

/-- The acceptance of `HMAC` and `GEN` has two outcomes (R125, R150). -/
theorem acceptKeyed_cases (p : EngineCmd) (c : CoreState) :
    (c.kst ≠ .keyready ∧ acceptKeyed p c = raise .seq c) ∨
    (c.kst = .keyready ∧ acceptKeyed p c = startEngine p (clearCode (clearDigest c))) := by
  by_cases hk : c.kst = .keyready <;> simp [acceptKeyed, hk]

/-- A compression before a key byte is stored, or none (R98). -/
theorem keyFlush_cases (c : CoreState) :
    ((64 ≤ c.klen.toNat ∧ c.klen.toNat % 64 = 0) ∧
      keyFlush c = { c with kh := compress c.kh c.kbuf, kbuf := zeroBlock }) ∨
    (¬ (64 ≤ c.klen.toNat ∧ c.klen.toNat % 64 = 0) ∧ keyFlush c = c) := by
  by_cases h : 64 ≤ c.klen.toNat ∧ c.klen.toNat % 64 = 0
  · exact .inl ⟨h, if_pos h⟩
  · exact .inr ⟨h, if_neg h⟩

/-- An appended key byte writes `KLEN`, `KBUF` and `KH` and nothing else (R98). -/
theorem keyStore_keyFlush_frame (b : Byte) (c : CoreState) :
    ∃ buf h, keyStore b (keyFlush c) = { c with klen := c.klen + 1, kbuf := buf, kh := h } := by
  obtain ⟨-, e⟩ | ⟨-, e⟩ := keyFlush_cases c <;> rw [e] <;> exact ⟨_, _, rfl⟩

/-! ### The engine -/

/-- The engine's turn: nothing, one engine step, or the fault of R60's missing case. -/
theorem engineTurn_cases (s : State) :
    (s.core.busy = false ∧ engineTurn s = .next s) ∨
    (∃ p, s.core.busy = true ∧ s.core.pend = some p ∧ engineTurn s = .next (s.mapCore (engineStep p))) ∨
    (s.core.busy = true ∧ s.core.pend = none ∧ engineTurn s = .fault .noPendingCommand) := by
  cases hb : s.core.busy with
  | false => exact .inl ⟨rfl, by simp [engineTurn, hb]⟩
  | true =>
    cases hp : s.core.pend with
    | none   => exact .inr (.inr ⟨rfl, rfl, by simp [engineTurn, hb, hp]⟩)
    | some p => exact .inr (.inl ⟨p, rfl, rfl, by simp [engineTurn, hb, hp]⟩)

/-! ### The host's write -/

/-- Decoding is an instruction, an illegal command word, or a plain register. -/
theorem hostWrite_cases (r : Reg) (v : Word) (s : State) :
    (∃ i, decode r v = .ok i ∧ hostWrite r v s = exec i s) ∨
    (decode r v = .error .illegalCommand ∧ hostWrite r v s = .next (s.mapCore (guarded (raise .illcmd)))) ∨
    (decode r v = .error .plainRegister ∧ hostWrite r v s = .next (s.mapCore (plainWrite r v))) := by
  unfold hostWrite
  split <;> simp_all

/-- A host write that the port carries always answers a next state, and only its core differs. -/
theorem hostWrite_next (r : Reg) (v : Word) (s : State) : ∃ f, hostWrite r v s = .next (s.mapCore f) := by
  obtain ⟨i, -, h⟩ | ⟨-, h⟩ | ⟨-, h⟩ := hostWrite_cases r v s
  · exact ⟨_, h.trans (exec_eq_guarded i s)⟩
  · exact ⟨_, h⟩
  · exact ⟨_, h⟩

/-! ### One turn of the schedule -/

@[simp] theorem portRefusal_eq_none {a : Access} : portRefusal a = none ↔ a.wf = true := by
  cases h1 : a.wholeWord <;> cases h2 : a.inWindow <;> simp [portRefusal, Access.wf, h1, h2]

theorem step_of_nil {s : State} (h : s.turns = []) : step s = engineTurn s := by
  simp [step, takeTurn, h]

theorem step_of_engine {s : State} {rest : List Turn} (h : s.turns = .engine :: rest) :
    step s = engineTurn { s with turns := rest } := by simp [step, takeTurn, h]

theorem step_of_reset {s : State} {rest : List Turn} (h : s.turns = .reset :: rest) :
    step s = .next { s with core := CoreState.reset, turns := rest } := by
  simp [step, takeTurn, h, resetTurn]

theorem step_of_write {s : State} {a : Access} {v : Word} {rest : List Turn}
    (h : s.turns = .write a v :: rest) (ha : portRefusal a = none) :
    step s = hostWrite a.reg v { s with turns := rest } := by
  simp only [step, takeTurn, h, ha]

/-- The step on a script's `wr REG, value` (30_encoding.md R80). -/
theorem step_of_wrTurn {s : State} {r : Reg} {v : Word} {rest : List Turn} (h : s.turns = wrTurn r v :: rest) :
    step s = hostWrite r v { s with turns := rest } := by
  have hw : r.access.wf = true := by
    have := r.index.isLt
    rw [Access.wf_iff]
    refine ⟨rfl, ?_, ?_⟩ <;> simp only [Reg.access] <;> omega
  have hr : r.access.reg = r := by simp [Reg.access, Access.reg, Reg.ofIndex_index]
  have := step_of_write (a := r.access) h (by simp [hw])
  rwa [hr] at this

theorem step_of_refused_write {s : State} {a : Access} {v : Word} {rest : List Turn} {r : Refusal}
    (h : s.turns = .write a v :: rest) (ha : portRefusal a = some r) : step s = .refused r := by
  simp only [step, takeTurn, h, ha]

theorem step_of_read {s : State} {a : Access} {rest : List Turn}
    (h : s.turns = .read a :: rest) (ha : portRefusal a = none) :
    step s = .next (hostRead a.reg { s with turns := rest }) := by
  simp only [step, takeTurn, h, ha]

theorem step_of_refused_read {s : State} {a : Access} {rest : List Turn} {r : Refusal}
    (h : s.turns = .read a :: rest) (ha : portRefusal a = some r) : step s = .refused r := by
  simp only [step, takeTurn, h, ha]

theorem step_of_poll {s : State} {n : Nat} {rest : List Turn} (h : s.turns = .poll n :: rest) :
    step s = .next (hostRead .status { s with turns := afterPoll n s.core.busy ++ rest }) := by
  simp [step, takeTurn, h]

/-- Everything one step that answers a next state can do to the core: nothing, an engine step, a reset, or one
host write that the port carries. -/
theorem step_core_cases {s t : State} (h : step s = .next t) :
    t.core = s.core ∨
    (∃ p, (s.turns = [] ∨ ∃ rest, s.turns = .engine :: rest) ∧ s.core.busy = true ∧ s.core.pend = some p ∧
      t.core = engineStep p s.core) ∨
    ((∃ rest, s.turns = .reset :: rest) ∧ t.core = CoreState.reset) ∨
    (∃ a v rest, s.turns = .write a v :: rest ∧ a.wf = true ∧
      hostWrite a.reg v { s with turns := rest } = .next t) := by
  cases ht : s.turns with
  | nil =>
    rw [step_of_nil ht] at h
    obtain ⟨-, e⟩ | ⟨p, hb, hp, e⟩ | ⟨-, -, e⟩ := engineTurn_cases s <;> rw [e] at h <;> cases h
    · exact .inl rfl
    · exact .inr (.inl ⟨p, .inl rfl, hb, hp, rfl⟩)
  | cons x rest =>
    cases x with
    | engine =>
      rw [step_of_engine ht] at h
      obtain ⟨-, e⟩ | ⟨p, hb, hp, e⟩ | ⟨-, -, e⟩ := engineTurn_cases { s with turns := rest } <;>
        rw [e] at h <;> cases h
      · exact .inl rfl
      · exact .inr (.inl ⟨p, .inr ⟨rest, rfl⟩, hb, hp, rfl⟩)
    | reset =>
      rw [step_of_reset ht] at h
      cases h
      exact .inr (.inr (.inl ⟨⟨rest, rfl⟩, rfl⟩))
    | write a v =>
      cases ha : portRefusal a with
      | some r => rw [step_of_refused_write ht ha] at h; cases h
      | none =>
        rw [step_of_write ht ha] at h
        exact .inr (.inr (.inr ⟨a, v, rest, rfl, by simpa using ha, h⟩))
    | read a =>
      cases ha : portRefusal a with
      | some r => rw [step_of_refused_read ht ha] at h; cases h
      | none => rw [step_of_read ht ha] at h; cases h; exact .inl rfl
    | poll n => rw [step_of_poll ht] at h; cases h; exact .inl rfl

/-- Everything one host write that the port carries can do to the core. -/
theorem hostWrite_core_cases {r : Reg} {v : Word} {s t : State} (h : hostWrite r v s = .next t) :
    (∃ e, t.core = raise e s.core) ∨
    (s.core.busy = false ∧ ∃ i, decode r v = .ok i ∧ t.core = coreEffect i s.core) ∨
    (r = .evt ∧ t.core = dismiss v s.core) ∨
    (r = .ie ∧ t.core = writeIe v s.core) ∨
    (s.core.busy = false ∧ r = .ctrHi ∧ t.core = writeCtrHi v s.core) ∨
    (s.core.busy = false ∧ r = .ctrLo ∧ t.core = writeCtrLo v s.core) ∨
    (s.core.busy = false ∧ ∃ n, r = .digest n ∧ t.core = writeDigest n v s.core) ∨
    t.core = s.core := by
  obtain ⟨i, hi, e⟩ | ⟨-, e⟩ | ⟨-, e⟩ := hostWrite_cases r v s <;> rw [e] at h
  · rw [exec_eq_guarded] at h
    cases h
    obtain ⟨-, g⟩ | ⟨hb, g⟩ := guarded_cases (coreEffect i) s.core
    · exact .inl ⟨_, g⟩
    · exact .inr (.inl ⟨hb, i, hi, g⟩)
  · cases h
    obtain ⟨-, g⟩ | ⟨-, g⟩ := guarded_cases (raise .illcmd) s.core <;> exact .inl ⟨_, g⟩
  · cases h
    cases r
    case evt => exact .inr (.inr (.inl ⟨rfl, rfl⟩))
    case ie => exact .inr (.inr (.inr (.inl ⟨rfl, rfl⟩)))
    case ctrHi =>
      obtain ⟨-, g⟩ | ⟨hb, g⟩ := guarded_cases (writeCtrHi v) s.core
      · exact .inl ⟨_, g⟩
      · exact .inr (.inr (.inr (.inr (.inl ⟨hb, rfl, g⟩))))
    case ctrLo =>
      obtain ⟨-, g⟩ | ⟨hb, g⟩ := guarded_cases (writeCtrLo v) s.core
      · exact .inl ⟨_, g⟩
      · exact .inr (.inr (.inr (.inr (.inr (.inl ⟨hb, rfl, g⟩)))))
    case digest n =>
      obtain ⟨-, g⟩ | ⟨hb, g⟩ := guarded_cases (writeDigest n v) s.core
      · exact .inl ⟨_, g⟩
      · exact .inr (.inr (.inr (.inr (.inr (.inr (.inl ⟨hb, n, rfl, g⟩))))))
    all_goals exact .inr (.inr (.inr (.inr (.inr (.inr (.inr rfl))))))

end Sys2Proof.Machine
end

