-- ==== Sys2Proof/Laws/PerInstr.lean ====
section
/-! SUPPORT. Statements made of every instruction, one lemma per constructor. -/

namespace Sys2Proof.Laws.GuardedEncoding

/-- The instruction is carried by a whole-word write, inside the window, to `CMD` or `KEYIN`
(30_encoding.md R70, R77; 20_memory.md R50, R52). -/
def Statement (i : Instr) : Prop :=
  ((encode i).1 = .cmd ∨ (encode i).1 = .keyin) ∧ (encode i).1.access.wf = true

theorem nop : Statement .nop := ⟨.inl rfl, rfl⟩
theorem clr : Statement .clr := ⟨.inl rfl, rfl⟩
theorem keystart : Statement .keystart := ⟨.inl rfl, rfl⟩
theorem keyend : Statement .keyend := ⟨.inl rfl, rfl⟩
theorem hmac : Statement .hmac := ⟨.inl rfl, rfl⟩
theorem trunc : Statement .trunc := ⟨.inl rfl, rfl⟩
theorem gen : Statement .gen := ⟨.inl rfl, rfl⟩
theorem keyin (ign : BitVec 24) (byte : Byte) : Statement (.keyin ign byte) := ⟨.inr rfl, by simp only [encode]; decide⟩

end Sys2Proof.Laws.GuardedEncoding
end

