-- ==== Sys2Proof/Laws/Run.lean ====
section
/-! SUPPORT. Runs: one step in front, one run after another; the host's turns of a schedule. -/

namespace Sys2Proof.Machine

theorem run_succ_of_step {s t : State} (h : step s = .next t) (n : Nat) : run (n + 1) s = run n t := by
  simp only [run, h]

/-- A run that stops nowhere goes on from where it ends. -/
theorem run_add {s t : State} {n : Nat} (h : run n s = .next t) (m : Nat) : run (n + m) s = run m t := by
  induction n generalizing s with
  | zero => cases h; rw [Nat.zero_add]
  | succ n ih =>
    rw [show n + 1 + m = (n + m) + 1 by omega]
    simp only [run] at h ⊢
    cases hs : step s with
    | next u    => rw [hs] at h; exact ih h
    | fault r   => rw [hs] at h; cases h
    | refused r => rw [hs] at h; cases h

theorem Reaches.refl (s : State) : Reaches s s := ⟨0, rfl⟩

theorem Reaches.of_step {s t : State} (h : step s = .next t) : Reaches s t := ⟨1, by simp [run, h]⟩

theorem Reaches.trans {s t u : State} (h : Reaches s t) (h' : Reaches t u) : Reaches s u := by
  obtain ⟨n, h⟩ := h
  obtain ⟨m, h'⟩ := h'
  exact ⟨n + m, by rw [run_add h, h']⟩

@[simp] theorem hostTurns_nil : hostTurns [] = [] := rfl

/-- An engine turn is no part of the host's script. -/
@[simp] theorem hostTurns_engine (ts : List Turn) : hostTurns (.engine :: ts) = hostTurns ts := rfl

@[simp] theorem hostTurns_write (a : Access) (v : Word) (ts : List Turn) :
    hostTurns (.write a v :: ts) = .write a v :: hostTurns ts := rfl

@[simp] theorem hostTurns_read (a : Access) (ts : List Turn) :
    hostTurns (.read a :: ts) = .read a :: hostTurns ts := rfl

@[simp] theorem hostTurns_poll (n : Nat) (ts : List Turn) :
    hostTurns (.poll n :: ts) = .poll n :: hostTurns ts := rfl

@[simp] theorem hostTurns_reset (ts : List Turn) : hostTurns (.reset :: ts) = .reset :: hostTurns ts := rfl

end Sys2Proof.Machine
end

