-- ==== Sys2Proof/Laws/Sha1.lean ====
section
/-! SUPPORT. The padding and the chaining of SHA-1, unfolded once (42_hmac_sha1.md R117 to R119). -/

namespace Sys2Proof.Machine

@[simp] theorem padBytes_length (tail : List Byte) (total : Nat) :
    (padBytes tail total).length = tail.length + 1 + padZeros tail.length + 8 := by
  simp [padBytes]
  omega

/-- One more block of the chaining. -/
theorem chain_succ (msg : List Byte) (n : Nat) :
    chain msg (n + 1) = compress (chain msg n) (blockAt msg n) := by
  simp [chain, List.range_succ]

@[simp] theorem chain_zero (msg : List Byte) : chain msg 0 = sha1Iv := rfl

/-- The first blocks of a message do not depend on what follows them. -/
theorem blockAt_append {msg : List Byte} {i : Nat} (h : 64 * (i + 1) ≤ msg.length) (t : List Byte) :
    blockAt (msg ++ t) i = blockAt msg i := by
  apply Vector.toList_inj.mp
  simp only [blockAt, blockOf_toList]
  rw [List.drop_append_of_le_length (by omega)]
  have hl : 64 ≤ (msg.drop (64 * i)).length := by rw [List.length_drop]; omega
  rw [List.append_assoc, List.take_append_of_le_length hl, List.take_append_of_le_length hl]

theorem chain_append {msg : List Byte} {n : Nat} (h : 64 * n ≤ msg.length) (t : List Byte) :
    chain (msg ++ t) n = chain msg n := by
  induction n with
  | zero => simp
  | succ n ih =>
    rw [chain_succ, chain_succ, ih (by omega), blockAt_append (by omega)]

end Sys2Proof.Machine
end

