-- ==== Sys2Proof/Tests/Slice0.lean ====
section
/-! SUPPORT. Tests of the model, each expected result taken from spec/ (the file and rule stand in its comment), and for
every obligation with hypotheses a witness: concrete states and operands that meet them together. -/

namespace Sys2Proof.Tests

open Sys2Proof.Machine

/-! ### Small states -/

/-- A core in `ResetState` but for the key state and the key length. -/
def coreIn (k : KeyState) (klen : Word) : CoreState := { CoreState.reset with kst := k, klen := klen }

/-- A core working on a command. -/
def busyOn (p : EngineCmd) (k : KeyState) (klen : Word) : CoreState :=
  { coreIn k klen with busy := true, pend := some p }

/-- A core and what happens next. -/
def machine (c : CoreState) (turns : List Turn) : State := ⟨c, turns, []⟩

/-- The core of a next state; `ResetState` with every event set if there is none. -/
def coreAfter (o : Host.Outcome State Fault Refusal) : CoreState :=
  match o with
  | .next t    => t.core
  | .fault _   => { CoreState.reset with evt := 0xFFFFFFFF }
  | .refused _ => { CoreState.reset with evt := 0xFFFFFFFF }

/-- The values read in a next state. -/
def readsAfter (o : Host.Outcome State Fault Refusal) : List Word :=
  match o with
  | .next t    => t.reads
  | .fault _   => []
  | .refused _ => []

/-- ASCII `12345678901234567890`, the known-answer key (44_gen_and_host.md R151). -/
def knownKey : List Byte :=
  [0x31, 0x32, 0x33, 0x34, 0x35, 0x36, 0x37, 0x38, 0x39, 0x30,
   0x31, 0x32, 0x33, 0x34, 0x35, 0x36, 0x37, 0x38, 0x39, 0x30]

/-- A core that holds the key block of the known-answer key, with counter 1. -/
def knownCore : CoreState :=
  { coreIn .keyready 20 with kbuf := blockOf knownKey, ctrLo := 1 }

/-- A core whose key entry holds the bytes of 64 times 0x61. -/
def fullBuffer : CoreState :=
  { coreIn .keyload 64 with kbuf := Vector.replicate 64 0x61, kh := sha1Iv }

/-! ### WellFormed: one ill-formed access for each check, refused by it and by the step -/

/-- R52: a halfword, and a byte offset that is not a word's, are not whole-word accesses. -/
theorem test_wf_width : Access.wholeWord ⟨0x00, 2⟩ = false ∧ Access.wholeWord ⟨0x02, 4⟩ = false ∧
    Access.wf ⟨0x00, 8⟩ = false := by decide

/-- R50: the byte offset 0x80 is the first beyond the window, and 0x7C the last in it. -/
theorem test_wf_window : Access.inWindow ⟨0x80, 4⟩ = false ∧ Access.wf ⟨0x80, 4⟩ = false ∧
    Access.wf ⟨0x7C, 4⟩ = true := by decide

theorem test_turn_wf : Turn.wf (.write ⟨0x01, 4⟩ 0) = false ∧ Turn.wf (.read ⟨0x00, 1⟩) = false ∧
    Turn.wf (.read ⟨0x40, 4⟩) = true := by decide

/-- R52: the step refuses what the port cannot carry. -/
theorem test_step_refuses :
    step (machine CoreState.reset [.read ⟨0x04, 1⟩]) = .refused .notWordAccess ∧
    step (machine CoreState.reset [.write ⟨0x06, 4⟩ 0]) = .refused .notWordAccess ∧
    step (machine CoreState.reset [.write ⟨0x80, 4⟩ 0]) = .refused .outsideWindow :=
  ⟨rfl, rfl, rfl⟩

/-! ### Decoding: words written out from 30_encoding.md R70, R71, R77 (RSV in bits 31:8, OP in bits 7:0) -/

theorem test_decode_nop : decode .cmd 0b00000000000000000000000000000000 = .ok .nop := by rfl
theorem test_decode_clr : decode .cmd 0b00000000000000000000000000000001 = .ok .clr := by rfl
theorem test_decode_keystart : decode .cmd 0b00000000000000000000000000000010 = .ok .keystart := by rfl
theorem test_decode_keyend : decode .cmd 0b00000000000000000000000000000011 = .ok .keyend := by rfl
theorem test_decode_hmac : decode .cmd 0b00000000000000000000000000000100 = .ok .hmac := by rfl
theorem test_decode_trunc : decode .cmd 0b00000000000000000000000000000101 = .ok .trunc := by rfl
theorem test_decode_gen : decode .cmd 0b00000000000000000000000000000110 = .ok .gen := by rfl
theorem test_decode_keyin : decode .keyin 0b10000000000000000000000101100001 = .ok (.keyin 0x800001 0x61) := by rfl

/-- R74: the first illegal opcode, a legal opcode under a reserved bit that is set, and the all-ones word. -/
theorem test_decode_illegal :
    decode .cmd 0x00000007 = .error .illegalCommand ∧ decode .cmd 0x00000101 = .error .illegalCommand ∧
    decode .cmd 0x80000000 = .error .illegalCommand ∧ decode .cmd 0xFFFFFFFF = .error .illegalCommand := by
  exact ⟨rfl, rfl, rfl, rfl⟩

/-! ### The instructions, one step each -/

/-- R85: a key entry in progress and the events stay. -/
theorem test_nop : coreAfter (exec .nop (machine { fullBuffer with evt := 0x21 } []))
    = { fullBuffer with evt := 0x21 } := by decide +kernel

/-- R86, its example. -/
theorem test_clr : coreAfter (exec .clr (machine { knownCore with evt := 0x01, ie := 0x3F } [])) = CoreState.reset := by
  decide +kernel

/-- R96, its example: `STATUS = 0x02`, `KLEN = 0`. -/
theorem test_keystart : statusWord (coreAfter (exec .keystart (machine CoreState.reset []))) = 0x02 ∧
    (coreAfter (exec .keystart (machine CoreState.reset []))).kh.w4 = 0xC3D2E1F0 := by decide

/-- V-KEY, its last row: results and key of an earlier use go, `CTR_LO` and `EVT` stay. -/
theorem test_keystart_again :
    let c := coreAfter (exec .keystart (machine { knownCore with evt := 1, code := 942454, codevalid := true } []))
    statusWord c = 0x02 ∧ c.code = 0 ∧ c.ctrLo = 1 ∧ c.evt = 1 ∧ c.kbuf = zeroBlock := by decide +kernel

/-- R98, its example: the 65th write of 0x61 compresses the full buffer first. -/
theorem test_keyin_65th :
    let c := coreAfter (exec (.keyin 0 0x61) (machine fullBuffer []))
    c.klen = 65 ∧ c.kh = ⟨0xDA4968EB, 0x2E377C1F, 0x884E8F52, 0x83524BEB, 0xE74EBDBD⟩ ∧
    c.kbuf = blockOf [0x61] := by decide +kernel

/-- V-KEY: bits 31:8 of the word 0x00000100 are ignored, the byte 0x00 is appended. -/
theorem test_keyin_ignored_bits :
    let c := coreAfter (step (machine (coreIn .keyload 7) [wrTurn .keyin 0x00000100]))
    c.klen = 8 ∧ c.kbuf = zeroBlock ∧ c.evt = 0 := by decide +kernel

/-- R101, its example: `EVT = 0x02`, `STATUS = 0x00`. -/
theorem test_keyend_empty :
    let c := coreAfter (exec .keyend (machine { coreIn .keyload 0 with kh := sha1Iv } []))
    c = { CoreState.reset with evt := 0x02 } := by decide +kernel

/-- R101, R104, its example: 65 bytes 0x61 end with the hashed key. -/
theorem test_keyend_completion_65 :
    let c := coreAfter (step (machine { busyOn .keyend .keyload 65 with
      kh := ⟨0xDA4968EB, 0x2E377C1F, 0x884E8F52, 0x83524BEB, 0xE74EBDBD⟩, kbuf := blockOf [0x61] } [.engine]))
    c.kbuf = blockOf [0x11, 0x65, 0x53, 0x26, 0xc7, 0x08, 0xd7, 0x03, 0x19, 0xbe, 0x26, 0x10, 0xe8, 0xa5, 0x7d, 0x9a,
      0x5b, 0x95, 0x9d, 0x3b] ∧ statusWord c = 0x04 ∧ c.klen = 65 ∧ c.evt = 0x01 := by decide +kernel

/-- R125, its example. -/
theorem test_hmac_without_key : coreAfter (exec .hmac (machine CoreState.reset []))
    = { CoreState.reset with evt := 0x08 } := by decide +kernel

/-- R126, its example: the known-answer key with counter 1. -/
theorem test_hmac_completion :
    let c := coreAfter (step (machine { knownCore with busy := true, pend := some .hmac } [.engine]))
    c.digest = ⟨0x75A48A19, 0xD4CBE100, 0x644E8AC1, 0x397EEA74, 0x7A2D33AB⟩ ∧
    statusWord c = 0x08 ∧ c.klen = 0 ∧ c.evt = 0x01 ∧ c.kbuf = zeroBlock := by decide +kernel

/-- R143, its example. -/
theorem test_trunc : statusWord (coreAfter (exec .trunc (machine CoreState.reset []))) = 0x01 := by decide

/-- R144, its example (V-TRUNC row 10): the greatest offset reads bytes 15 to 18. -/
theorem test_trunc_completion :
    let c := coreAfter (step (machine { busyOn .trunc .nokey 0 with digest := ⟨0, 0, 0, 0x12, 0x3456780F⟩ } []))
    c.offset = 15 ∧ c.bin = 0x12345678 ∧ c.code = 419896 ∧ c.bcd = 0x00419896 ∧ statusWord c = 0x10 := by
  decide +kernel

/-- R150, its example: `STATUS = 0x05`. -/
theorem test_gen : statusWord (coreAfter (exec .gen (machine knownCore []))) = 0x05 := by decide +kernel

/-- R151, its example, the document's known-answer vector (E2). -/
theorem test_gen_completion :
    let c := coreAfter (step (machine { knownCore with busy := true, pend := some .gen } []))
    c.digest = ⟨0x75A48A19, 0xD4CBE100, 0x644E8AC1, 0x397EEA74, 0x7A2D33AB⟩ ∧ c.offset = 11 ∧
    c.bin = 0x41397EEA ∧ c.code = 287082 ∧ c.bcd = 0x00287082 ∧ statusWord c = 0x18 ∧ c.klen = 0 ∧ c.evt = 0x01 := by
  decide +kernel

/-! ### The other writes and the reads -/

/-- R88, its example; a busy core does it too. -/
theorem test_write_evt :
    (coreAfter (step (machine { busyOn .trunc .nokey 0 with evt := 0x09 } [wrTurn .evt 0x01]))).evt = 0x08 := by decide

/-- R89, its example. -/
theorem test_write_ie :
    irq (coreAfter (step (machine { CoreState.reset with evt := 0x01 } [wrTurn .ie 0x01]))) = true := by decide

/-- R91, its example. -/
theorem test_write_digest :
    let c := coreAfter (step (machine { CoreState.reset with
      digest := ⟨0x75A48A19, 0xD4CBE100, 0x644E8AC1, 0x397EEA74, 0x7A2D33AB⟩, digvalid := true, codevalid := true,
      offset := 11, bin := 0x41397EEA, code := 287082, bcd := 0x287082 } [wrTurn (.digest 4) 0]))
    statusWord c = 0 ∧ c.code = 0 ∧ c.bcd = 0 ∧ c.digest = ⟨0x75A48A19, 0xD4CBE100, 0x644E8AC1, 0x397EEA74, 0⟩ := by
  decide

/-- R174: program P4, run A: `wr CTR_LO, 5` while HMAC runs is dropped. -/
theorem test_write_too_early :
    coreAfter (step (machine { knownCore with busy := true, pend := some .hmac } [wrTurn .ctrLo 5]))
      = { knownCore with busy := true, pend := some .hmac, evt := 0x10 } := by decide +kernel

/-- R55: `BCD` reads its register; `CMD` and a reserved word read 0. -/
theorem test_reads :
    readsAfter (step (machine { CoreState.reset with bcd := 0x287082 } [rdTurn .bcd])) = [0x287082] ∧
    readsAfter (step (machine fullBuffer [rdTurn .cmd])) = [0] ∧
    readsAfter (step (machine fullBuffer [.read ⟨0x14, 4⟩])) = [64] ∧
    readsAfter (step (machine fullBuffer [.read ⟨0x44, 4⟩])) = [0] := by decide +kernel

/-! ### SHA-1 and the host -/

/-- V-SHA: `SHA1("abc")`, `SHA1("")`, `SHA1` of 65 bytes 0x61. -/
theorem test_sha1 :
    sha1 [0x61, 0x62, 0x63] = bytesOfWords ⟨0xA9993E36, 0x4706816A, 0xBA3E2571, 0x7850C26C, 0x9CD0D89D⟩ ∧
    sha1 [] = bytesOfWords ⟨0xDA39A3EE, 0x5E6B4B0D, 0x3255BFEF, 0x95601890, 0xAFD80709⟩ ∧
    sha1 (List.replicate 65 0x61) = bytesOfWords ⟨0x11655326, 0xC708D703, 0x19BE2610, 0xE8A57D9A, 0x5B959D3B⟩ := by
  decide +kernel

/-- V-TRUNC rows 2, 8, 9, 12: bit 31, a word-aligned offset, one across two words, six different digits. -/
theorem test_truncation :
    truncBcd ⟨0xFFFFFFFF, 0xFFFFFFFF, 0xFFFFFFFF, 0xFFFFFFFF, 0xFFFFFFFF⟩ = 0x483647 ∧
    truncBin ⟨0x00112233, 0x44556677, 0x8899AABB, 0xCCDDEEFF, 0x01020304⟩ = 0x44556677 ∧
    truncBin ⟨0x00112233, 0x44556677, 0x8899AABB, 0xCCDDEEFF, 0x010203F7⟩ = 0x778899AA ∧
    truncBcd ⟨0, 0, 0x0001E240, 0, 8⟩ = 0x123456 := by decide +kernel

/-- R155, R158, their examples. -/
theorem test_host :
    timeStep 59 = some 1 ∧ timeStep 1111111109 = some 0x023523EC ∧
    renderCode 0x00000042 = [0x30, 0x30, 0x30, 0x30, 0x34, 0x32] ∧
    renderCode 0x00287082 = [0x32, 0x38, 0x37, 0x30, 0x38, 0x32] := by decide

/-- R82, R81: the bus encoding of `ctr 0x0000000123456789`. -/
theorem test_bus :
    (scriptTurns [.ctr 0x0000000123456789, .comment "both halves"]).map (List.map busLine) =
      some [some "W 18 00000001".toList, some "W 1C 23456789".toList] := by decide +kernel

/-- R155, N9: a time that the host must not present has no script, and its counter does not wrap. -/
theorem test_totp_has_no_script :
    (HostLine.totp knownKey (30 * 2 ^ 64) 0 0).turns = none ∧ (HostLine.totp knownKey (-1) 0 0).turns = none ∧
    scriptTurns [.cmd .nop, .totp knownKey (30 * 2 ^ 64) 0 0] = none := by decide +kernel

/-- V-GEN, its last row: the time 2^64 - 1 writes the counter 0x0888888888888888. -/
theorem test_totp_counter :
    ((HostLine.totp [] 18446744073709551615 0 0).turns.getD []).contains (wrTurn .ctrHi 0x08888888) = true ∧
    ((HostLine.totp [] 18446744073709551615 0 0).turns.getD []).contains (wrTurn .ctrLo 0x88888888) = true := by
  decide +kernel

/-! ### Witnesses: the hypotheses of each obligation, met together. They are named after the obligation. -/

/-- The invariant holds of a core that works on TRUNC. -/
theorem inv_of_busy_trunc : Inv (busyOn .trunc .nokey 0) where
  item1a := by decide
  item3 _ := ⟨rfl, rfl, rfl⟩
  item4 h := absurd h (by decide)
  item5 h := absurd h (by decide)
  item6a h := absurd h (by decide)
  item6b h := absurd h (by decide)
  item7a _ := ⟨rfl, rfl, rfl, rfl⟩
  item7b h := absurd h (by decide)
  item8 := ⟨by decide, by decide, by decide, by decide, by decide⟩
  item9 := by decide
  item10a h := absurd h (by decide)
  item10b _ := rfl

/-- One key byte 0x61 has been entered. -/
def oneByte : CoreState := { coreIn .keyload 1 with kbuf := blockOf [0x61], kh := sha1Iv }

theorem oneByte_entered : KeyEntered [0x61] oneByte := ⟨rfl, by decide, by decide +kernel⟩

/-- The key of one byte 0x61 is ready and GEN is running. -/
def busyGen : CoreState := { busyOn .gen .keyready 1 with kbuf := blockOf [0x61] }

theorem inv_of_busyGen : Inv busyGen where
  item1a := by decide
  item3 h := absurd h (by decide)
  item4 h := absurd h (by decide)
  item5 _ := ⟨[0x61], rfl, by decide, rfl, by decide +kernel⟩
  item6a h := absurd h (by decide)
  item6b _ := rfl
  item7a _ := ⟨rfl, rfl, rfl, rfl⟩
  item7b h := absurd h (by decide)
  item8 := ⟨by decide, by decide, by decide, by decide, by decide⟩
  item9 := by decide
  item10a _ := ⟨rfl, rfl⟩
  item10b _ := rfl

theorem witness_DecodeIsTheInverseOfEncode :
    decode .cmd 6 = .ok .gen ∧ encode .gen = (.cmd, 6) ∧
    decode .keyin 0xFFFFFFFF = .ok (.keyin 0xFFFFFF 0xFF) ∧ encode (.keyin 0xFFFFFF 0xFF) = (.keyin, 0xFFFFFFFF) :=
  ⟨rfl, rfl, rfl, rfl⟩

theorem witness_RegisterMapHasNoAliases : Access.wf ⟨0x00, 4⟩ = true ∧ Access.wf ⟨0x7C, 4⟩ = true := by decide

theorem witness_IllegalWordsRaiseIllcmdOnly :
    (machine CoreState.reset [wrTurn .cmd 7]).turns = [wrTurn .cmd 7] ∧ CoreState.reset.busy = false ∧
    7 ≤ (7 : Word).toNat ∧ ¬ 7 ≤ (6 : Word).toNat ∧ 7 ≤ (0x100 : Word).toNat ∧
    (machine (busyOn .trunc .nokey 0) [wrTurn .cmd 1]).turns = [wrTurn .cmd 1] ∧
    (busyOn .trunc .nokey 0).busy = true := by decide

theorem witness_StepRunsTheDecodedInstruction :
    (machine fullBuffer [.write ⟨0x10, 4⟩ 0x61]).turns = [.write ⟨0x10, 4⟩ 0x61] ∧ Access.wf ⟨0x10, 4⟩ = true ∧
    decode (Access.reg ⟨0x10, 4⟩) 0x61 = .ok (.keyin 0 0x61) ∧ decodeTableWord 32 6 = some .gen :=
  ⟨rfl, by decide, rfl, rfl⟩

theorem witness_StepOnAHostWriteIsRegWrite :
    (machine CoreState.reset [.write ⟨0x7C, 4⟩ 1]).turns = [.write ⟨0x7C, 4⟩ 1] ∧ Access.wf ⟨0x7C, 4⟩ = true := by
  decide

/-- Each offset of the table is that of a well-formed access; 0x44 and 0x7C are the ends of the reserved words,
0x20, 0x30, 0x34, 0x40 those of the two clauses about a core that works on GEN. -/
theorem witness_HostReadFollowsRegRead :
    (machine busyGen [.read ⟨0x44, 4⟩]).turns = [.read ⟨0x44, 4⟩] ∧ Inv busyGen ∧ busyGen.pend = some .gen ∧
    ∀ o ∈ [0x00, 0x04, 0x08, 0x0C, 0x10, 0x14, 0x18, 0x1C, 0x20, 0x24, 0x28, 0x2C, 0x30, 0x34, 0x38, 0x3C, 0x40,
      0x44, 0x7C], Access.wf ⟨o, 4⟩ = true :=
  ⟨rfl, inv_of_busyGen, rfl, by decide⟩

theorem witness_ReservedWordsReadZeroAndIgnoreWrites :
    (0x44 ≤ 0x7C ∧ 0x7C ≤ 0x7C ∧ 0x7C % 4 = 0) ∧ (0x44 ≤ 0x44 ∧ 0x44 ≤ 0x7C ∧ 0x44 % 4 = 0) ∧
    (machine (busyOn .trunc .nokey 0) [.write ⟨0x7C, 4⟩ 5]).turns = [.write ⟨0x7C, 4⟩ 5] ∧
    (machine CoreState.reset [.read ⟨0x44, 4⟩]).turns = [.read ⟨0x44, 4⟩] := by decide

theorem witness_ReadOnlyRegistersAndReservedBits :
    (machine (busyOn .trunc .nokey 0) [wrTurn .bcd 5]).turns = [wrTurn .bcd 5] ∧ Inv (busyOn .trunc .nokey 0) ∧
    (0xFFFFFFC1 : Word).extractLsb' 0 6 = (0x00000001 : Word).extractLsb' 0 6 :=
  ⟨rfl, inv_of_busy_trunc, by decide⟩

theorem witness_AccessesThePortCannotCarryAreRefused :
    (machine CoreState.reset [.read ⟨0, 2⟩]).turns = [.read ⟨0, 2⟩] ∧ (Access.mk 0 2).bytes ≠ 4 ∧
    (Access.mk 3 4).offset % 4 ≠ 0 ∧ (128 ≤ (Access.mk 128 4).offset ∧ (Access.mk 128 4).offset % 4 = 0) := by decide

theorem witness_EngineStepsExactlyWhenBusy :
    (machine (busyOn .gen .keyready 1) [.engine]).turns = [.engine] ∧ (busyOn .gen .keyready 1).busy = true ∧
    (busyOn .gen .keyready 1).pend = some .gen ∧
    (machine CoreState.reset []).turns = [] ∧ CoreState.reset.busy = false := by decide

theorem witness_ResetIsAlwaysEnabled :
    (machine (busyOn .hmac .keyready 1) [.reset]).turns = [.reset] := by decide

theorem witness_WaitReturnsAfterTheEngineStep :
    (machine (busyOn .hmac .keyready 1) [.poll 3]).turns = [.poll 3] ∧ (busyOn .hmac .keyready 1).busy = true ∧
    (busyOn .hmac .keyready 1).pend = some .hmac ∧ CoreState.reset.busy = false := by decide

theorem witness_EveryStepKeepsTheInvariant :
    Inv (machine (busyOn .trunc .nokey 0) [.engine]).core ∧
    ∃ t, step (machine (busyOn .trunc .nokey 0) [.engine]) = .next t := ⟨inv_of_busy_trunc, _, rfl⟩

theorem witness_SafeStatesNeverStop : Safe (machine (busyOn .trunc .nokey 0) [wrTurn .cmd 9, .engine, .poll 1]) :=
  ⟨inv_of_busy_trunc, by decide⟩

theorem witness_BusyCoreDropsGuardedWrites :
    (machine (busyOn .trunc .nokey 0) [wrTurn (.digest 4) 1]).turns = [wrTurn (.digest 4) 1] ∧
    (busyOn .trunc .nokey 0).busy = true ∧ guardedReg (.digest 4) = true ∧ guardedReg .evt = false := by decide

theorem witness_SeqFollowsTheAdmissionTable :
    CoreState.reset.busy = false ∧ admitted .gen CoreState.reset.kst = false ∧
    admitted .trunc CoreState.reset.kst = true ∧ admitted (.keyin 0 1) fullBuffer.kst = true := by decide

theorem witness_EventsArePrecise :
    (∃ t, step (machine CoreState.reset [wrTurn .cmd 6]) = .next t ∧
      raisedBy .seq (machine CoreState.reset [wrTurn .cmd 6]) t) ∧
    (∃ t, step (machine (coreIn .keyload 0) [wrTurn .cmd 3]) = .next t ∧
      raisedBy .invkey (machine (coreIn .keyload 0) [wrTurn .cmd 3]) t) :=
  ⟨⟨_, rfl, by decide, by decide⟩, ⟨_, rfl, by decide, by decide⟩⟩

theorem witness_OneWriteRaisesAtMostOneEvent :
    ∃ t, (machine CoreState.reset [wrTurn .keyin 6]).turns = [.write ⟨0x10, 4⟩ 6] ∧
      step (machine CoreState.reset [wrTurn .keyin 6]) = .next t ∧
      raisedBy .seq (machine CoreState.reset [wrTurn .keyin 6]) t := ⟨_, rfl, rfl, by decide, by decide⟩

theorem witness_DoneIsSetExactlyByTheEngine :
    ∃ t, step (machine (busyOn .trunc .nokey 0) []) = .next t ∧ engineNext (machine (busyOn .trunc .nokey 0) []) ∧
      (machine (busyOn .trunc .nokey 0) []).core.busy = true ∧
      raisedBy .done (machine (busyOn .trunc .nokey 0) []) t :=
  ⟨_, rfl, .inl rfl, rfl, by decide +kernel, by decide +kernel⟩

theorem witness_EventsAreSticky :
    (∃ t, step (machine { CoreState.reset with evt := 0x3F } [wrTurn .evt 0x20]) = .next t ∧
      eventSet .keyovf { CoreState.reset with evt := 0x3F } = true ∧ eventSet .keyovf t.core = false) ∧
    (∃ t, step (machine { CoreState.reset with evt := 1 } [wrTurn .cmd 1]) = .next t ∧
      eventSet .done { CoreState.reset with evt := 1 } = true ∧ eventSet .done t.core = false) ∧
    (∃ t, step (machine { CoreState.reset with evt := 1 } [.reset]) = .next t ∧ eventSet .done t.core = false) :=
  ⟨⟨_, rfl, by decide, by decide⟩, ⟨_, rfl, by decide, by decide⟩, ⟨_, rfl, by decide⟩⟩

theorem witness_WritingEvtClearsTheBitsWritten :
    (machine (busyOn .trunc .nokey 0) [wrTurn .evt 0xFFFFFFFF]).turns = [wrTurn .evt 0xFFFFFFFF] := by decide

theorem witness_WritingIeStoresSixBits :
    (machine (busyOn .trunc .nokey 0) [wrTurn .ie 0xFFFFFFFF]).turns = [wrTurn .ie 0xFFFFFFFF] := by decide

theorem witness_CounterWritesStoreTheWord :
    CoreState.reset.busy = false ∧ (machine CoreState.reset [wrTurn .ctrHi 0xFFFFFFFF]).turns = [wrTurn .ctrHi 0xFFFFFFFF] ∧
    (machine CoreState.reset [wrTurn .ctrLo 1]).turns = [wrTurn .ctrLo 1] ∧
    (busyOn .gen .keyready 1).busy = true ∧
    (machine (busyOn .gen .keyready 1) [wrTurn .ctrLo 1]).turns = [wrTurn .ctrLo 1] := by decide

theorem witness_DigestWritesInvalidateTheResult :
    (machine CoreState.reset [wrTurn (.digest 0) 1]).turns = [wrTurn (.digest 0) 1] ∧ CoreState.reset.busy = false ∧
    (machine (busyOn .trunc .nokey 0) [wrTurn (.digest 4) 1]).turns = [wrTurn (.digest 4) 1] ∧
    (busyOn .trunc .nokey 0).busy = true := by decide

/-- An idle and a busy core: the hypotheses of the statements about `NOP`, `CLR`, `KEYSTART`, `TRUNC`. -/
theorem witness_NopChangesNothing :
    (machine knownCore []).core.busy = false ∧ (machine (busyOn .gen .keyready 1) []).core.busy = true := by decide

theorem witness_ClrPutsTheCoreIntoResetState :
    (machine knownCore []).core.busy = false ∧ (machine (busyOn .gen .keyready 1) []).core.busy = true ∧
    ∃ t, exec .clr (machine knownCore []) = .next t := ⟨rfl, rfl, _, rfl⟩

theorem witness_KeystartBeginsAnEmptyKey :
    (machine fullBuffer []).core.busy = false ∧ (machine (busyOn .hmac .keyready 1) []).core.busy = true := by decide

theorem witness_TruncIsAcceptedInEveryKeyState :
    (machine fullBuffer []).core.busy = false ∧ (machine (busyOn .hmac .keyready 1) []).core.busy = true := by decide

/-- The first and the last byte a key can have, a full buffer, the overflow, a wrong key state, a busy core. -/
theorem witness_KeyinAppendsTheByte :
    ((coreIn .keyload 0).busy = false ∧ (coreIn .keyload 0).kst = .keyload ∧ (coreIn .keyload 0).klen.toNat < 2 ^ 32 - 1) ∧
    (coreIn .keyload 0xFFFFFFFE).klen.toNat < 2 ^ 32 - 1 ∧
    (64 ≤ fullBuffer.klen.toNat ∧ fullBuffer.klen.toNat % 64 = 0) ∧
    ((coreIn .keyload 0xFFFFFFFF).klen.toNat = 2 ^ 32 - 1 ∧ (coreIn .keyload 0xFFFFFFFF).kst = .keyload) ∧
    (coreIn .nokey 0).kst ≠ .keyload ∧ (busyOn .keyend .keyload 1).busy = true := by decide

theorem witness_KeyendIsAcceptedWithAKey :
    ((coreIn .keyload 1).busy = false ∧ (coreIn .keyload 1).kst = .keyload ∧ (coreIn .keyload 1).klen ≠ 0) ∧
    ((coreIn .keyload 0).kst = .keyload ∧ (coreIn .keyload 0).klen = 0) ∧
    ((coreIn .keyready 1).busy = false ∧ (coreIn .keyready 1).kst ≠ .keyload) ∧
    (busyOn .keyend .keyload 1).busy = true := by decide

/-- With the longest key that is not hashed, and the shortest that is. -/
theorem witness_KeyendCompletionFormsTheKeyBlock :
    engineNext (machine (busyOn .keyend .keyload 64) [.engine]) ∧ (busyOn .keyend .keyload 64).busy = true ∧
    (busyOn .keyend .keyload 64).pend = some .keyend ∧ (busyOn .keyend .keyload 64).klen.toNat ≤ 64 ∧
    64 < (busyOn .keyend .keyload 65).klen.toNat := ⟨.inr ⟨[], rfl⟩, rfl, rfl, by decide, by decide⟩

theorem witness_KeyEntryTracksTheKeyBytes :
    CoreState.reset.busy = false ∧
    oneByte.busy = false ∧ oneByte.kst = .keyload ∧ KeyEntered [0x61] oneByte ∧ [(0x61 : Byte)].length < 2 ^ 32 - 1 :=
  ⟨rfl, rfl, rfl, oneByte_entered, by decide⟩

theorem witness_KeyendCompletionYieldsK0 :
    let c : CoreState := { oneByte with busy := true, pend := some .keyend }
    engineNext (machine c []) ∧ c.busy = true ∧ c.pend = some .keyend ∧ KeyEntered [0x61] c ∧
    1 ≤ [(0x61 : Byte)].length :=
  ⟨.inl rfl, rfl, rfl, ⟨oneByte_entered.klen, oneByte_entered.kh, oneByte_entered.kbuf⟩, by decide⟩

theorem witness_PaddingFillsOneOrTwoBlocks :
    (List.replicate 55 (0 : Byte)).length ≤ 55 ∧ 56 ≤ (List.replicate 56 (0 : Byte)).length ∧
    (List.replicate 64 (0 : Byte)).length ≤ 64 ∧ 2 ^ 32 - 1 < 2 ^ 61 := by decide

/-- 95_test_vectors.md P4, run A, and P2: the engine steps between KEYEND and the read of `EVT`, which finds `DONE`, and
before the first read of the `wait` after GEN, which finds 0x18. -/
theorem test_engine_between_accesses :
    readsAfter (run 2 (machine (busyOn .keyend .keyload 1) [.engine, rdTurn .evt])) = [0x01] ∧
    readsAfter (run 2 (machine { busyOn .gen .keyready 1 with ctrHi := 0xFFFFFFFF, ctrLo := 0xFFFFFFFF }
      [.engine, .poll 0])) = [0x18] := by decide +kernel

theorem witness_HmacOfEightBytesIsHmac : (bytes64 1).length = 8 := rfl

theorem witness_HmacAndGenAreAcceptedWithAReadyKey :
    knownCore.busy = false ∧ knownCore.kst = .keyready ∧ CoreState.reset.busy = false ∧
    CoreState.reset.kst ≠ .keyready ∧ (busyOn .gen .keyready 1).busy = true := by decide

theorem witness_HmacCompletionWritesTheDigest :
    engineNext (machine (busyOn .hmac .keyready 1) [.engine]) ∧ (busyOn .hmac .keyready 1).busy = true ∧
    (busyOn .hmac .keyready 1).pend = some .hmac := ⟨.inr ⟨[], rfl⟩, rfl, rfl⟩

theorem witness_TruncCompletionWritesTheCode :
    engineNext (machine (busyOn .trunc .keyload 1) []) ∧ (busyOn .trunc .keyload 1).busy = true ∧
    (busyOn .trunc .keyload 1).pend = some .trunc := ⟨.inl rfl, rfl, rfl⟩

theorem witness_GenCompletionWritesDigestAndCode :
    engineNext (machine (busyOn .gen .keyready 1) []) ∧ (busyOn .gen .keyready 1).busy = true ∧
    (busyOn .gen .keyready 1).pend = some .gen ∧ ∃ d, d = hmac8 zeroBlock (bytes64 0) :=
  ⟨.inl rfl, rfl, rfl, _, rfl⟩

theorem witness_GenIsHmacThenTrunc :
    (machine knownCore []).core.busy = false ∧ (machine knownCore []).core.kst = .keyready ∧
    hostTurns [cmdTurn .gen, .engine, .poll 0] = [cmdTurn .gen, .poll 0] ∧
    hostTurns [cmdTurn .hmac, .poll 3, .engine, cmdTurn .trunc, .engine, .poll 1, .engine] =
      [cmdTurn .hmac, .poll 3, cmdTurn .trunc, .poll 1] := by decide

/-- The offsets 0, 12, 1 and 15: the ends of the two cases. -/
theorem witness_ExtractionIsASliceOfTheDigest :
    truncOffset ⟨1, 2, 3, 4, 0xF0⟩ = 4 * (0 : Fin 5).val ∧ truncOffset ⟨1, 2, 3, 4, 0x0C⟩ = 4 * (3 : Fin 5).val ∧
    truncOffset ⟨1, 2, 3, 4, 0x01⟩ = 4 * (0 : Fin 4).val + 1 ∧ truncOffset ⟨1, 2, 3, 4, 0x0F⟩ = 4 * (3 : Fin 4).val + 3 := by
  decide

theorem witness_ExtractionStaysInsideTheDigest :
    truncOffset ⟨1, 2, 3, 4, 0x1F⟩ = truncOffset ⟨1, 2, 3, 4, 0x0F⟩ ∧
    ∀ i < 19, (digestBytes ⟨1, 2, 3, 4, 0x1F⟩).getD i 0 = (digestBytes ⟨1, 2, 3, 4, 0x0F⟩).getD i 0 := by decide

theorem witness_BcdHoldsTheSixDigits : (999999 : Word).toNat < 1000000 := by decide

theorem witness_RenderedCodeIsSixDigits : (42 : Word).toNat < 1000000 := by decide

/-- One step for each line of the table. -/
theorem witness_KeyStateChangesOnlyByTheTable :
    (∃ t, step (machine (coreIn .keyready 1) [.reset]) = .next t ∧ t.core.kst ≠ .keyready) ∧
    (∃ t, step (machine (busyOn .keyend .keyload 1) []) = .next t ∧ t.core.kst ≠ .keyload) ∧
    (∃ t, step (machine (busyOn .gen .keyready 1) []) = .next t ∧ t.core.kst ≠ .keyready) ∧
    (∃ t, step (machine CoreState.reset [wrTurn .cmd 2]) = .next t ∧ t.core.kst ≠ .nokey) ∧
    (∃ t, step (machine (coreIn .keyload 1) [wrTurn .cmd 1]) = .next t ∧ t.core.kst ≠ .keyload) ∧
    (∃ t, step (machine (coreIn .keyload 0xFFFFFFFF) [wrTurn .keyin 1]) = .next t ∧ t.core.kst ≠ .keyload) ∧
    (∃ t, step (machine (coreIn .keyload 0) [wrTurn .cmd 3]) = .next t ∧ t.core.kst ≠ .keyload) :=
  ⟨⟨_, rfl, by decide⟩, ⟨_, rfl, by decide⟩, ⟨_, rfl, by decide⟩, ⟨_, rfl, by decide⟩, ⟨_, rfl, by decide⟩,
    ⟨_, rfl, by decide⟩, ⟨_, rfl, by decide⟩⟩

theorem witness_EngineInputsAreFrozenWhileBusy :
    let s := machine (busyOn .hmac .keyready 1) [wrTurn .ctrLo 5]
    (∃ t, step s = .next t) ∧ s.core.busy = true ∧ ¬ engineNext s ∧ ∀ rest, s.turns ≠ .reset :: rest :=
  ⟨⟨_, rfl⟩, rfl, (by rintro (h | ⟨r, h⟩) <;> cases h), (by intro r h; cases h)⟩

theorem witness_BusyRisesOnlyByAnEngineCommand :
    ∃ t, step (machine knownCore [wrTurn .cmd 6]) = .next t ∧ knownCore.busy = false ∧ t.core.busy = true :=
  ⟨_, rfl, rfl, rfl⟩

theorem witness_CounterChangesOnlyByItsOwnWrites :
    (∃ t, step (machine CoreState.reset [wrTurn .ctrHi 5]) = .next t ∧ t.core.ctrHi ≠ CoreState.reset.ctrHi) ∧
    (∃ t, step (machine CoreState.reset [wrTurn .ctrLo 5]) = .next t ∧ t.core.ctrLo ≠ CoreState.reset.ctrLo) ∧
    (∃ t, step (machine knownCore [wrTurn .cmd 1]) = .next t ∧ t.core.ctrLo ≠ knownCore.ctrLo) ∧
    (∃ t, step (machine knownCore [.reset]) = .next t ∧ t.core.ctrLo ≠ knownCore.ctrLo) :=
  ⟨⟨_, rfl, by decide⟩, ⟨_, rfl, by decide⟩, ⟨_, rfl, by decide⟩, ⟨_, rfl, by decide⟩⟩

/-- Two cores that hold different keys. -/
theorem witness_KeyMaterialIsHiddenFromTheHost :
    let s := machine (coreIn .keyready 1) [wrTurn .cmd 6]
    let s' := machine { coreIn .keyready 1 with kbuf := blockOf [0x61], kh := sha1Iv } [wrTurn .cmd 6]
    s'.turns = s.turns ∧ s'.reads = s.reads ∧ AgreeButHidden s.core s'.core ∧ s'.core ≠ s.core ∧
    ¬ (engineNext s ∧ (s.core.pend = some .hmac ∨ s.core.pend = some .gen)) ∧ ∃ t, step s = .next t :=
  ⟨rfl, rfl, rfl, by decide +kernel, (by rintro ⟨h | ⟨r, h⟩, -⟩ <;> cases h), _, rfl⟩

/-- The ends of the three ranges. -/
theorem witness_TimeStepIsTheFloorOfThirtySeconds :
    30 * 2 ^ 64 - 1 < 30 * 2 ^ 64 ∧ 30 * 2 ^ 64 ≤ 30 * 2 ^ 64 ∧ (-1 : Int) < 0 ∧
    (0 : Int) ≤ 0 ∧ (30 * 2 ^ 64 : Int) - 1 < 30 * 2 ^ 64 ∧ (30 * 2 ^ 64 : Int) ≤ 30 * 2 ^ 64 := by decide

/-- From a core that still works on a command; the shortest and the longest key; schedules with the engine's turn
before the first read of a `wait`, between KEYEND and the read of `EVT`, and between the counter writes. -/
theorem witness_InvocationComputesTheCode :
    Inv (machine (busyOn .trunc .nokey 0) []).core ∧
    (1 ≤ [(0 : Byte)].length ∧ [(0 : Byte)].length < 2 ^ 32) ∧
    (1 ≤ (List.replicate (2 ^ 32 - 1) (0 : Byte)).length ∧ (List.replicate (2 ^ 32 - 1) (0 : Byte)).length < 2 ^ 32) ∧
    hostTurns [.engine, .poll 0, wrTurn .evt 0x3F, cmdTurn .keystart, wrTurn .keyin 0, cmdTurn .keyend, .engine,
      rdTurn .evt] = invocationStart 0 [0] ∧
    hostTurns [.poll 0, wrTurn .ctrHi 0, .engine, wrTurn .ctrLo 1, cmdTurn .gen, .engine, .poll 2, rdTurn .status,
      rdTurn .bcd] = invocationRest 0x01 1 0 2 :=
  ⟨inv_of_busy_trunc, by decide, by rw [List.length_replicate]; decide, by decide, by decide⟩

theorem witness_InvocationRefusesTheEmptyKey :
    Inv (machine (busyOn .trunc .nokey 0) []).core ∧
    hostTurns [.engine, .poll 0, wrTurn .evt 0x3F, cmdTurn .keystart, cmdTurn .keyend, .engine, rdTurn .evt] =
      invocationStart 0 [] ∧
    hostTurns [.engine, wrTurn .evt 0x02] = invocationRest 0x02 1 0 2 :=
  ⟨inv_of_busy_trunc, by decide, by decide⟩

end Sys2Proof.Tests
end

section
/-! The ranges of the event word and of the result registers (10_state.md R45 items 8 and 9), and that a decoded
word is the encoding of its instruction (30_encoding.md R71, R77). -/

namespace Sys2Proof

/-! ### Decoding -/

/-- A command word is its fields `RSV ‖ OP` (R70). -/
theorem word_of_fields (w : Word) : w = rsvField w ++ opField w := by
  have h : w.extractLsb' 8 24 ++ w.extractLsb' 0 8 = w.extractLsb' 0 (24 + 8) :=
    BitVec.extractLsb'_append_extractLsb'_eq_extractLsb' rfl
  exact (h.trans BitVec.extractLsb'_eq_self).symm

theorem eq_ofNat_of_toNat {n : Nat} {x : BitVec n} {k : Nat} (h : x.toNat = k) : x = BitVec.ofNat n k := by
  rw [← h, BitVec.ofNat_toNat, BitVec.setWidth_eq]

theorem encode_of_decodeCommand {w : Word} {i : Instr} (h : decodeCommand w = .ok i) : encode i = (.cmd, w) := by
  unfold decodeCommand at h
  split at h
  next hr =>
    rw [word_of_fields w, hr]
    split at h <;> cases h
    all_goals
      next ho => rw [eq_ofNat_of_toNat ho]; rfl
  next => cases h

theorem encode_of_decode {r : Reg} {w : Word} {i : Instr} (h : decode r w = .ok i) : encode i = (r, w) := by
  cases r with
  | cmd => exact encode_of_decodeCommand h
  | keyin => cases h; exact congrArg (Prod.mk Reg.keyin) (word_of_fields w).symm
  | _ => cases h

end Sys2Proof

namespace Sys2Proof.Machine

/-! ### The event word -/

theorem Event.mask_lt (e : Event) : e.mask.toNat < 2 ^ 6 := by cases e <;> decide

theorem sixBits_lt (v : Word) : (sixBits v).toNat < 2 ^ 6 := by
  rw [sixBits, BitVec.toNat_setWidth_of_le (by decide)]
  exact (v.extractLsb' 0 6).isLt

theorem evtCleared_le (evt v : Word) : (evtCleared evt v).toNat ≤ evt.toNat := by
  rw [evtCleared, BitVec.toNat_and]
  exact Nat.and_le_left

theorem eventSet_dismiss (e : Event) (v : Word) (c : CoreState) :
    eventSet e (dismiss v c) = (eventSet e c && !v.getLsbD e.code) := by
  have he := e.code_lt
  simp only [eventSet, dismiss_evt, evtCleared, BitVec.getLsbD_and, BitVec.getLsbD_not, sixBits_getLsbD, he,
    show e.code < 32 by omega, decide_true, Bool.true_and]

/-! ### The truncation -/

theorem truncOffset_lt (d : Words5) : truncOffset d < 16 := by
  rw [truncOffset, BitVec.toNat_and]
  exact Nat.lt_of_le_of_lt Nat.and_le_right (by decide)

theorem truncBin_lt (d : Words5) : (truncBin d).toNat < 2 ^ 31 := by
  rw [truncBin, BitVec.toNat_and]
  exact Nat.lt_of_le_of_lt Nat.and_le_right (by decide)

theorem truncCode_lt (d : Words5) : (truncCode d).toNat < 10 ^ 6 := by
  rw [truncCode, BitVec.toNat_umod]
  exact Nat.mod_lt _ (by decide)

theorem decimalDigit_le (code : Word) (i : Nat) : (decimalDigit code i).toNat ≤ 9 := by
  rw [decimalDigit, BitVec.toNat_ofNat]
  omega

theorem toNat_append_nibble {n : Nat} (x : BitVec n) (d : BitVec 4) : (x ++ d).toNat = 16 * x.toNat + d.toNat := by
  rw [BitVec.toNat_append, ← Nat.shiftLeft_add_eq_or_of_lt d.isLt, Nat.shiftLeft_eq, Nat.mul_comm]

/-- The BCD word is the number whose hexadecimal digits are the decimal digits of the code (R141). -/
theorem bcdWord_toNat (code : Word) :
    (bcdWord code).toNat =
      16 * (16 * (16 * (16 * (16 * (decimalDigit code 5).toNat + (decimalDigit code 4).toNat)
        + (decimalDigit code 3).toNat) + (decimalDigit code 2).toNat) + (decimalDigit code 1).toNat)
        + (decimalDigit code 0).toNat := by
  rw [bcdWord, BitVec.toNat_setWidth_of_le (by decide)]
  simp only [toNat_append_nibble]

theorem bcdWord_lt (code : Word) : (bcdWord code).toNat < 2 ^ 24 := by
  rw [bcdWord, BitVec.toNat_setWidth_of_le (by decide)]
  exact BitVec.isLt _

theorem bcdWord_digit_le (code : Word) {i : Nat} (h : i < 6) : (bcdWord code).toNat / 16 ^ i % 16 ≤ 9 := by
  have h0 := decimalDigit_le code 0
  have h1 := decimalDigit_le code 1
  have h2 := decimalDigit_le code 2
  have h3 := decimalDigit_le code 3
  have h4 := decimalDigit_le code 4
  have h5 := decimalDigit_le code 5
  rw [bcdWord_toNat]
  interval_cases i <;> omega

end Sys2Proof.Machine
end


section
/-! Key entry (41_key.md R98 to R104): an accepted `KEYIN` byte is appended to the key that `KBUF`, `KH` and `KLEN`
describe, and the completion of `KEYEND` turns that key into its key block. -/

namespace Sys2Proof.Machine

theorem headBlocks_eq (n : Nat) : headBlocks n = (n - 1) / 64 := by
  simp only [headBlocks, Config.blockBytes]
  split <;> omega

theorem tailLength_eq (n : Nat) : tailLength n = n - 64 * headBlocks n := by
  rw [headBlocks_eq]
  simp only [tailLength, Config.blockBytes]
  split <;> omega

/-! ### An accepted byte -/

theorem blockOf_toList_of_le {s : List Byte} (h : s.length ≤ 64) :
    (blockOf s).toList = s ++ List.replicate (64 - s.length) 0 := by
  rw [blockOf_toList, List.take_append, List.take_of_length_le h, List.take_replicate, Nat.min_eq_left (by omega)]

/-- Storing a byte behind the `n` bytes that a block holds. -/
theorem blockOf_set {s : List Byte} {n : Nat} (hn : n < 64) (hs : s.length = n) (b : Byte) :
    (blockOf s).set n b hn = blockOf (s ++ [b]) := by
  subst hs
  apply Vector.toList_inj.mp
  rw [Vector.toList_set, blockOf_toList_of_le hn.le, blockOf_toList_of_le (by simpa using hn),
    show 64 - s.length = 64 - (s ++ [b]).length + 1 by simp; omega, List.replicate_succ]
  simp

theorem keyEntered_nil {c : CoreState} (hl : c.klen = 0) (hh : c.kh = sha1Iv) (hb : c.kbuf = zeroBlock) :
    KeyEntered [] c :=
  ⟨by rw [hl]; rfl, hh, hb.trans blockOf_nil.symm⟩

/-- The flush moves the write position to the block that the next byte belongs to (R98, R99). -/
theorem keyFlush_eq_chain {k : List Byte} {c : CoreState} (h : KeyEntered k c) :
    (keyFlush c).klen = c.klen ∧ (keyFlush c).kh = chain k (k.length / 64) ∧
      (keyFlush c).kbuf = blockAt k (k.length / 64) := by
  obtain ⟨hl, hh, hb⟩ := h
  obtain ⟨⟨hge, hmod⟩, e⟩ | ⟨hn, e⟩ := keyFlush_cases c <;> rw [e, hl] at *
  · have hq : k.length / 64 = headBlocks k.length + 1 := by rw [headBlocks_eq]; omega
    refine ⟨rfl, ?_, ?_⟩
    · rw [hq, chain_succ, ← hh, ← hb]
    · rw [blockAt, List.drop_of_length_le (by omega), blockOf_nil]
  · have hq : k.length / 64 = headBlocks k.length := by rw [headBlocks_eq]; omega
    rw [hq]
    exact ⟨rfl, hh, hb⟩

theorem keyEntered_concat {k : List Byte} {c : CoreState} (h : KeyEntered k c) (hl : c.klen ≠ Config.klenLimit)
    (b : Byte) : KeyEntered (k ++ [b]) (keyStore b (keyFlush c)) := by
  obtain ⟨el, eh, eb⟩ := keyFlush_eq_chain h
  have hk := h.klen
  have hq : headBlocks (k ++ [b]).length = k.length / 64 := by rw [headBlocks_eq]; simp
  have hlen : (c.klen + 1).toNat = k.length + 1 := by
    have : c.klen.toNat ≠ 2 ^ 32 - 1 := fun e => hl (BitVec.eq_of_toNat_eq e)
    rw [BitVec.toNat_add_of_lt] <;> simp <;> omega
  refine ⟨?_, ?_, ?_⟩
  · rw [List.length_append, List.length_singleton, ← hlen, ← el]; rfl
  · rw [hq, chain_append (by omega)]; exact eh
  · have : (k.drop (64 * (k.length / 64))).length = (keyFlush c).klen.toNat % 64 := by
      rw [el, hk, List.length_drop]; omega
    rw [hq, blockAt, List.drop_append_of_le_length (by omega), ← blockOf_set (Nat.mod_lt _ (by decide)) this]
    simp only [keyStore, eb, blockAt]

/-! ### The key block -/

/-- A last block that is full goes through the compression before the padding does (R117). -/
theorem sha1FinWords_of_full {tail : List Byte} (ht : tail.length = 64) (h : Words5) (total : Nat) :
    sha1FinWords h tail total = sha1FinWords (compress h (blockOf tail)) [] total := by
  have hp : padBytes tail total = tail ++ padBytes [] total := by simp [padBytes, ht, padZeros]
  have h2 : (padBytes tail total).length / 64 = 2 := by simp [ht, padZeros]
  have h1 : (padBytes [] total).length / 64 = 1 := by simp [padZeros]
  have b0 : blockAt (padBytes tail total) 0 = blockOf tail := by
    rw [hp]; exact blockOf_append ht _
  have b1 : blockAt (padBytes tail total) 1 = blockAt (padBytes [] total) 0 := by
    rw [hp, blockAt, List.drop_left' ht]; rfl
  simp only [sha1FinWords, padBlocks, h2, h1]
  simp [List.range_succ, b0, b1]

/-- The hash finished from the state of key entry is SHA-1 of the key (R99, R103, R104). -/
theorem sha1Fin_headBlocks {k : List Byte} (hk : k ≠ []) :
    sha1Fin (chain k (headBlocks k.length)) (k.drop (64 * headBlocks k.length)) k.length = sha1 k := by
  have hpos := List.length_pos_iff.mpr hk
  rw [headBlocks_eq]
  by_cases hm : k.length % 64 = 0
  · have hq : k.length / 64 = (k.length - 1) / 64 + 1 := by omega
    have ht : (k.drop (64 * ((k.length - 1) / 64))).length = 64 := by rw [List.length_drop]; omega
    have hd : k.drop (64 * ((k.length - 1) / 64 + 1)) = [] := List.drop_of_length_le (by omega)
    rw [sha1, hq, hd, chain_succ, sha1Fin, sha1Fin, sha1FinWords_of_full ht, blockAt]
  · rw [show (k.length - 1) / 64 = k.length / 64 by omega, sha1]

theorem keyTail_of_keyEntered {k : List Byte} {c : CoreState} (h : KeyEntered k c) :
    keyTail c = k.drop (64 * headBlocks k.length) := by
  have hq := headBlocks_eq k.length
  have ht : tailLength k.length = (k.drop (64 * headBlocks k.length)).length := by
    rw [tailLength_eq, List.length_drop]
  have : (k.drop (64 * headBlocks k.length)).length ≤ 64 := by rw [List.length_drop]; omega
  rw [keyTail, h.kbuf, h.klen, blockAt, blockOf_toList, List.take_take, ht, Nat.min_eq_left this, List.take_left]

/-- Completing `KEYEND` makes the key block of the key entered (R103, R104). -/
theorem keyReady_keyEndComplete {k : List Byte} {c : CoreState} (h : KeyEntered k c) (hpos : 1 ≤ c.klen.toNat) :
    KeyReady k (keyEndComplete c) where
  klen := h.klen
  nonempty := by rw [← h.klen]; exact hpos
  kh := rfl
  kbuf := by
    have hk : k ≠ [] := List.length_pos_iff.mp (by rw [← h.klen]; exact hpos)
    simp only [keyEndComplete, keyBlock, keyTail_of_keyEntered h, h.kh, h.klen, Config.blockBytes, sha1Fin_headBlocks hk]
    by_cases hl : k.length ≤ 64
    · have hq : headBlocks k.length = 0 := by rw [headBlocks_eq]; omega
      rw [if_neg (by omega), if_pos hl, h.kbuf, hq]
      rfl
    · rw [if_pos (by omega), if_neg hl]

end Sys2Proof.Machine
end

section
/-! What an instruction does to an idle core, and what a host write does to any core, said once with a name for each
outcome (20_memory.md R56; 41_key.md, 42_hmac_sha1.md, 43_trunc_mod.md, 44_gen_and_host.md). -/

namespace Sys2Proof.Machine

/-- `InstrEffect c i d`: on the idle core `c` the instruction `i` leads to the core `d`. -/
inductive InstrEffect (c : CoreState) : Instr → CoreState → Prop where
  | nop : InstrEffect c .nop c
  | clr : InstrEffect c .clr CoreState.reset
  | keystart : InstrEffect c .keystart (keyStartCommand c)
  | notAdmitted (i : Instr) (h : admitted i c.kst = false) : InstrEffect c i (raise .seq c)
  | keyOverflow (ign : BitVec 24) (b : Byte) (hk : c.kst = .keyload) (hl : c.klen = Config.klenLimit) :
      InstrEffect c (.keyin ign b) (raise .keyovf (zeroiseKey c))
  | keyByte (ign : BitVec 24) (b : Byte) (hk : c.kst = .keyload) (hl : c.klen ≠ Config.klenLimit) :
      InstrEffect c (.keyin ign b) (keyStore b (keyFlush c))
  | emptyKey (hk : c.kst = .keyload) (hl : c.klen = 0) : InstrEffect c .keyend (raise .invkey (zeroiseKey c))
  | keyend (hk : c.kst = .keyload) (hl : c.klen ≠ 0) : InstrEffect c .keyend (startEngine .keyend c)
  | hmac (hk : c.kst = .keyready) : InstrEffect c .hmac (startEngine .hmac (clearCode (clearDigest c)))
  | gen (hk : c.kst = .keyready) : InstrEffect c .gen (startEngine .gen (clearCode (clearDigest c)))
  | trunc : InstrEffect c .trunc (startEngine .trunc (clearCode c))

theorem instrEffect_coreEffect (i : Instr) (c : CoreState) : InstrEffect c i (coreEffect i c) := by
  cases i with
  | nop => exact .nop
  | clr => exact .clr
  | keystart => exact .keystart
  | trunc => exact .trunc
  | keyin ign b =>
    obtain ⟨hk, e⟩ | ⟨hk, hl, e⟩ | ⟨hk, hl, e⟩ := keyIn_cases b c <;> rw [coreEffect, e]
    · exact .notAdmitted _ (by simp [admitted, hk])
    · exact .keyOverflow ign b hk hl
    · exact .keyByte ign b hk hl
  | keyend =>
    obtain ⟨hk, e⟩ | ⟨hk, hl, e⟩ | ⟨hk, hl, e⟩ := keyEndCommand_cases c <;> rw [coreEffect, e]
    · exact .notAdmitted _ (by simp [admitted, hk])
    · exact .emptyKey hk hl
    · exact .keyend hk hl
  | hmac =>
    obtain ⟨hk, e⟩ | ⟨hk, e⟩ := acceptKeyed_cases .hmac c <;> rw [coreEffect, hmacCommand, e]
    · exact .notAdmitted _ (by simp [admitted, hk])
    · exact .hmac hk
  | gen =>
    obtain ⟨hk, e⟩ | ⟨hk, e⟩ := acceptKeyed_cases .gen c <;> rw [coreEffect, genCommand, e]
    · exact .notAdmitted _ (by simp [admitted, hk])
    · exact .gen hk

/-- `WriteEffect c v r d`: the word `v` written to the register `r` takes the core `c` to the core `d`. -/
inductive WriteEffect (c : CoreState) (v : Word) : Reg → CoreState → Prop where
  /-- `BUSYWR` or `ILLCMD` -/
  | event (r : Reg) (e : Event) : WriteEffect c v r (raise e c)
  | instr {r : Reg} {i : Instr} {d : CoreState} (hi : c.busy = false) (hd : decode r v = .ok i)
      (he : InstrEffect c i d) : WriteEffect c v r d
  | evt : WriteEffect c v .evt (dismiss v c)
  | ie : WriteEffect c v .ie (writeIe v c)
  | ctrHi (hi : c.busy = false) : WriteEffect c v .ctrHi (writeCtrHi v c)
  | ctrLo (hi : c.busy = false) : WriteEffect c v .ctrLo (writeCtrLo v c)
  | digest (hi : c.busy = false) (n : Fin 5) : WriteEffect c v (.digest n) (writeDigest n v c)
  | ignored (r : Reg) : WriteEffect c v r c

theorem writeEffect_of_hostWrite {r : Reg} {v : Word} {s t : State} (h : hostWrite r v s = .next t) :
    WriteEffect s.core v r t.core := by
  obtain ⟨e, ht⟩ | ⟨hi, i, hd, ht⟩ | ⟨rfl, ht⟩ | ⟨rfl, ht⟩ | ⟨hi, rfl, ht⟩ | ⟨hi, rfl, ht⟩ | ⟨hi, n, rfl, ht⟩ | ht :=
    hostWrite_core_cases h <;> rw [ht]
  · exact .event r e
  · exact .instr hi hd (instrEffect_coreEffect i s.core)
  · exact .evt
  · exact .ie
  · exact .ctrHi hi
  · exact .ctrLo hi
  · exact .digest hi n
  · exact .ignored r

/-- The effect of a step on the core: none, that of the engine, of a reset, or of a host write. -/
theorem step_effect_cases {s t : State} (h : step s = .next t) :
    t.core = s.core ∨
    (∃ p, engineNext s ∧ s.core.busy = true ∧ s.core.pend = some p ∧ t.core = engineStep p s.core) ∨
    ((∃ rest, s.turns = .reset :: rest) ∧ t.core = CoreState.reset) ∨
    (∃ a v rest, s.turns = .write a v :: rest ∧ a.wf = true ∧ WriteEffect s.core v a.reg t.core) := by
  obtain e | e | e | ⟨a, v, rest, ht, ha, hw⟩ := step_core_cases h
  · exact .inl e
  · exact .inr (.inl e)
  · exact .inr (.inr (.inl e))
  · exact .inr (.inr (.inr ⟨a, v, rest, ht, ha, writeEffect_of_hostWrite (s := { s with turns := rest }) hw⟩))

end Sys2Proof.Machine
end

section
/-! The invariant of 10_state.md R45 in four parts, each about the fields it names and kept by every operation that
leaves those fields alone; then one lemma for each operation, and O15 and O16. -/

namespace Sys2Proof.Machine

/-! ### The four parts -/

/-- Items 3 to 5: what the key registers hold in each key state. -/
structure KeyInv (c : CoreState) : Prop where
  nokey    : c.kst = .nokey → NoKey c
  keyload  : c.kst = .keyload → ∃ k, KeyEntered k c
  keyready : c.kst = .keyready → ∃ k, KeyReady k c

/-- Items 1, 6 and 10: what a pending command says about the rest. -/
structure PendInv (c : CoreState) : Prop where
  busy   : c.busy = true ↔ c.pend ≠ none
  keyend : c.pend = some .keyend → c.kst = .keyload ∧ 1 ≤ c.klen.toNat
  keyed  : c.pend = some .hmac ∨ c.pend = some .gen → c.kst = .keyready
  digest : c.pend = some .hmac ∨ c.pend = some .gen → c.digvalid = false ∧ c.digest = Words5.zero
  code   : c.pend = some .hmac ∨ c.pend = some .gen ∨ c.pend = some .trunc → c.codevalid = false

/-- Items 7 and 8: the result registers. -/
structure ResultInv (c : CoreState) : Prop where
  invalid : c.codevalid = false → NoResult c
  valid   : c.codevalid = true → ResultOfDigest c
  ranges  : ResultRanges c

/-- Item 9: the six implemented bits of `EVT` and `IE`. -/
def EventInv (c : CoreState) : Prop := c.evt.toNat < 2 ^ 6 ∧ c.ie.toNat < 2 ^ 6

theorem inv_iff (c : CoreState) : Inv c ↔ KeyInv c ∧ PendInv c ∧ ResultInv c ∧ EventInv c := by
  constructor
  · intro h
    exact ⟨⟨h.item3, h.item4, h.item5⟩, ⟨h.item1a, h.item6a, h.item6b, h.item10a, h.item10b⟩,
      ⟨h.item7a, h.item7b, h.item8⟩, h.item9⟩
  · rintro ⟨hk, hp, hr, he⟩
    exact ⟨hp.busy, hk.nokey, hk.keyload, hk.keyready, hp.keyend, hp.keyed, hr.invalid, hr.valid, hr.ranges, he,
      hp.digest, hp.code⟩

/-! ### The key -/

theorem KeyInv.congr {c d : CoreState} (h : KeyInv c) (hs : d.kst = c.kst) (hl : d.klen = c.klen) (hh : d.kh = c.kh)
    (hb : d.kbuf = c.kbuf) : KeyInv d where
  nokey e :=
    have n := h.nokey (hs.symm.trans e)
    ⟨hl.trans n.klen, hh.trans n.kh, hb.trans n.kbuf⟩
  keyload e :=
    have ⟨k, n⟩ := h.keyload (hs.symm.trans e)
    ⟨k, hl ▸ n.klen, hh.trans n.kh, hb.trans n.kbuf⟩
  keyready e :=
    have ⟨k, n⟩ := h.keyready (hs.symm.trans e)
    ⟨k, hl ▸ n.klen, n.nonempty, hh.trans n.kh, hb.trans n.kbuf⟩

theorem keyInv_of_noKey {c : CoreState} (hs : c.kst = .nokey) (h : NoKey c) : KeyInv c :=
  ⟨fun _ => h, fun e => (nomatch hs.symm.trans e), fun e => (nomatch hs.symm.trans e)⟩

theorem keyInv_of_keyEntered {c : CoreState} {k : List Byte} (hs : c.kst = .keyload) (h : KeyEntered k c) : KeyInv c :=
  ⟨fun e => (nomatch hs.symm.trans e), fun _ => ⟨k, h⟩, fun e => (nomatch hs.symm.trans e)⟩

theorem keyInv_of_keyReady {c : CoreState} {k : List Byte} (hs : c.kst = .keyready) (h : KeyReady k c) : KeyInv c :=
  ⟨fun e => (nomatch hs.symm.trans e), fun e => (nomatch hs.symm.trans e), fun _ => ⟨k, h⟩⟩

/-- Whatever drops the key leaves no key material. -/
theorem keyInv_zeroiseKey (c : CoreState) : KeyInv (zeroiseKey c) := keyInv_of_noKey rfl ⟨rfl, rfl, rfl⟩

/-! ### The pending command -/

theorem PendInv.congr_idle {c d : CoreState} (h : PendInv c) (hi : c.busy = false) (hb : d.busy = c.busy)
    (hp : d.pend = c.pend) : PendInv d := by
  have hn : d.pend = none := by
    have := h.busy
    rw [hi] at this
    rw [hp]
    simpa using this
  constructor <;> simp [hn, hb, hi]

theorem pendInv_finishEngine (c : CoreState) : PendInv (finishEngine c) := by
  constructor <;> simp

/-! ### The results -/

theorem ResultInv.congr {c d : CoreState} (h : ResultInv c) (hv : d.codevalid = c.codevalid)
    (hd : d.digest = c.digest) (ho : d.offset = c.offset) (hb : d.bin = c.bin) (hc : d.code = c.code)
    (hbcd : d.bcd = c.bcd) : ResultInv d where
  invalid e :=
    have n := h.invalid (hv.symm.trans e)
    ⟨ho.trans n.offset, hb.trans n.bin, hc.trans n.code, hbcd.trans n.bcd⟩
  valid e :=
    have n := h.valid (hv.symm.trans e)
    ⟨by rw [ho, hd, n.offset], by rw [hb, hd, n.bin], by rw [hc, hd, n.code], by rw [hbcd, hd, n.bcd]⟩
  ranges :=
    have n := h.ranges
    ⟨ho ▸ n.offset, hb ▸ n.bin, hc ▸ n.code, hbcd ▸ n.digits, hbcd ▸ n.top⟩

theorem resultInv_of_noResult {c : CoreState} (hv : c.codevalid = false) (h : NoResult c) : ResultInv c where
  invalid _ := h
  valid e := nomatch hv.symm.trans e
  ranges := by
    obtain ⟨ho, hb, hc, hbcd⟩ := h
    constructor <;> simp [ho, hb, hc, hbcd]

theorem resultInv_clearCode (c : CoreState) : ResultInv (clearCode c) :=
  resultInv_of_noResult rfl ⟨rfl, rfl, rfl, rfl⟩

theorem resultInv_truncComplete (c : CoreState) : ResultInv (truncComplete c) where
  invalid e := nomatch e
  valid _ := ⟨rfl, rfl, rfl, rfl⟩
  ranges :=
    { offset := by
        have := truncOffset_lt c.digest
        simp only [truncComplete, BitVec.toNat_ofNat]
        omega
      bin := truncBin_lt c.digest
      code := truncCode_lt c.digest
      digits := fun _ => bcdWord_digit_le _
      top := bcdWord_lt _ }

/-! ### The events -/

theorem eventInv_raise {c : CoreState} (e : Event) (h : EventInv c) : EventInv (raise e c) :=
  ⟨by rw [raise_evt, BitVec.toNat_or]; exact Nat.or_lt_two_pow h.1 e.mask_lt, h.2⟩

/-! ### The operations -/

theorem inv_reset : Inv CoreState.reset :=
  (inv_iff _).mpr ⟨keyInv_zeroiseKey CoreState.reset, by constructor <;> simp [CoreState.reset],
    resultInv_clearCode CoreState.reset, by decide, by decide⟩

/-- The counter and the event words, in their ranges, are bound to nothing else. -/
theorem inv_of_frame {c d : CoreState} (h : Inv c) (he : EventInv d)
    (hd : d = { c with evt := d.evt, ie := d.ie, ctrHi := d.ctrHi, ctrLo := d.ctrLo }) : Inv d := by
  obtain ⟨hk, hp, hr, -⟩ := (inv_iff c).mp h
  rw [hd] at he ⊢
  exact (inv_iff _).mpr ⟨hk.congr rfl rfl rfl rfl, ⟨hp.busy, hp.keyend, hp.keyed, hp.digest, hp.code⟩,
    hr.congr rfl rfl rfl rfl rfl rfl, he⟩

theorem inv_raise {c : CoreState} (e : Event) (h : Inv c) : Inv (raise e c) :=
  inv_of_frame h (eventInv_raise e h.item9) rfl

theorem inv_dismiss {c : CoreState} (v : Word) (h : Inv c) : Inv (dismiss v c) :=
  inv_of_frame h ⟨(evtCleared_le c.evt v).trans_lt h.item9.1, h.item9.2⟩ rfl

theorem inv_writeIe {c : CoreState} (v : Word) (h : Inv c) : Inv (writeIe v c) :=
  inv_of_frame h ⟨h.item9.1, sixBits_lt v⟩ rfl

theorem inv_writeCtrHi {c : CoreState} (v : Word) (h : Inv c) : Inv (writeCtrHi v c) :=
  inv_of_frame h h.item9 rfl

theorem inv_writeCtrLo {c : CoreState} (v : Word) (h : Inv c) : Inv (writeCtrLo v c) :=
  inv_of_frame h h.item9 rfl

theorem inv_writeDigest {c : CoreState} (n : Fin 5) (v : Word) (hi : c.busy = false) (h : Inv c) :
    Inv (writeDigest n v c) := by
  obtain ⟨hk, hp, -, he⟩ := (inv_iff c).mp h
  exact (inv_iff _).mpr ⟨hk.congr rfl rfl rfl rfl, hp.congr_idle hi rfl rfl, resultInv_clearCode _, he⟩

/-- Dropping the key entry of an idle core (R98, R101). -/
theorem inv_zeroiseKey {c : CoreState} (hi : c.busy = false) (h : Inv c) : Inv (zeroiseKey c) := by
  obtain ⟨-, hp, hr, he⟩ := (inv_iff c).mp h
  exact (inv_iff _).mpr ⟨keyInv_zeroiseKey c, hp.congr_idle hi rfl rfl, hr.congr rfl rfl rfl rfl rfl rfl, he⟩

theorem inv_keyStartCommand {c : CoreState} (hi : c.busy = false) (h : Inv c) : Inv (keyStartCommand c) := by
  obtain ⟨-, hp, -, he⟩ := (inv_iff c).mp h
  exact (inv_iff _).mpr ⟨keyInv_of_keyEntered rfl (keyEntered_nil rfl rfl rfl), hp.congr_idle hi rfl rfl,
    resultInv_clearCode _, he⟩

theorem inv_keyByte {c : CoreState} (b : Byte) (hi : c.busy = false) (hs : c.kst = .keyload)
    (hl : c.klen ≠ Config.klenLimit) (h : Inv c) : Inv (keyStore b (keyFlush c)) := by
  obtain ⟨hk, hp, hr, he⟩ := (inv_iff c).mp h
  obtain ⟨k, hent⟩ := hk.keyload hs
  have hkey := keyEntered_concat hent hl b
  obtain ⟨buf, kh, e⟩ := keyStore_keyFlush_frame b c
  rw [e] at hkey ⊢
  exact (inv_iff _).mpr ⟨keyInv_of_keyEntered hs hkey, hp.congr_idle hi rfl rfl,
    hr.congr rfl rfl rfl rfl rfl rfl, he⟩

theorem inv_startKeyend {c : CoreState} (hs : c.kst = .keyload) (hl : c.klen ≠ 0) (h : Inv c) :
    Inv (startEngine .keyend c) := by
  obtain ⟨hk, -, hr, he⟩ := (inv_iff c).mp h
  have hpos : 1 ≤ c.klen.toNat := Nat.pos_of_ne_zero fun e => hl (BitVec.eq_of_toNat_eq e)
  exact (inv_iff _).mpr ⟨hk.congr rfl rfl rfl rfl, by constructor <;> simp [hs, hpos],
    hr.congr rfl rfl rfl rfl rfl rfl, he⟩

theorem inv_startKeyed {c : CoreState} {p : EngineCmd} (hp : p ≠ .keyend) (hs : c.kst = .keyready) (h : Inv c) :
    Inv (startEngine p (clearCode (clearDigest c))) := by
  obtain ⟨hk, -, -, he⟩ := (inv_iff c).mp h
  exact (inv_iff _).mpr ⟨hk.congr rfl rfl rfl rfl, by constructor <;> simp [hs, hp],
    (resultInv_clearCode (clearDigest c)).congr rfl rfl rfl rfl rfl rfl, he⟩

theorem inv_startTrunc {c : CoreState} (h : Inv c) : Inv (startEngine .trunc (clearCode c)) := by
  obtain ⟨hk, -, -, he⟩ := (inv_iff c).mp h
  exact (inv_iff _).mpr ⟨hk.congr rfl rfl rfl rfl, by constructor <;> simp,
    (resultInv_clearCode c).congr rfl rfl rfl rfl rfl rfl, he⟩

theorem inv_instrEffect {i : Instr} {c d : CoreState} (e : InstrEffect c i d) (hi : c.busy = false) (h : Inv c) :
    Inv d := by
  cases e with
  | nop => exact h
  | clr => exact inv_reset
  | keystart => exact inv_keyStartCommand hi h
  | notAdmitted => exact inv_raise _ h
  | keyOverflow => exact inv_raise _ (inv_zeroiseKey hi h)
  | keyByte _ b hk hl => exact inv_keyByte b hi hk hl h
  | emptyKey => exact inv_raise _ (inv_zeroiseKey hi h)
  | keyend hk hl => exact inv_startKeyend hk hl h
  | hmac hk => exact inv_startKeyed (by decide) hk h
  | gen hk => exact inv_startKeyed (by decide) hk h
  | trunc => exact inv_startTrunc h

/-! ### The engine -/

theorem engineWork_evt (p : EngineCmd) (c : CoreState) : (engineWork p c).evt = c.evt ∧ (engineWork p c).ie = c.ie := by
  cases p <;> exact ⟨rfl, rfl⟩

theorem keyInv_engineWork {p : EngineCmd} {c : CoreState} (hp : c.pend = some p) (h : Inv c) :
    KeyInv (engineWork p c) := by
  obtain ⟨hk, hpend, -, -⟩ := (inv_iff c).mp h
  cases p with
  | keyend =>
    obtain ⟨hs, hpos⟩ := hpend.keyend hp
    obtain ⟨k, hent⟩ := hk.keyload hs
    exact keyInv_of_keyReady rfl (keyReady_keyEndComplete hent hpos)
  | hmac => exact keyInv_zeroiseKey _
  | trunc => exact hk.congr rfl rfl rfl rfl
  | gen => exact (keyInv_zeroiseKey c).congr rfl rfl rfl rfl

theorem resultInv_engineWork {p : EngineCmd} {c : CoreState} (hp : c.pend = some p) (h : Inv c) :
    ResultInv (engineWork p c) := by
  obtain ⟨-, hpend, hr, -⟩ := (inv_iff c).mp h
  cases p with
  | keyend => exact hr.congr rfl rfl rfl rfl rfl rfl
  | hmac =>
    have hv := hpend.code (.inl hp)
    obtain ⟨ho, hb, hc, hbcd⟩ := hr.invalid hv
    exact resultInv_of_noResult hv ⟨ho, hb, hc, hbcd⟩
  | trunc => exact resultInv_truncComplete c
  | gen => exact resultInv_truncComplete (hmacComplete c)

theorem inv_engineStep {p : EngineCmd} {c : CoreState} (hp : c.pend = some p) (h : Inv c) : Inv (engineStep p c) := by
  have he : EventInv (engineWork p c) := by
    rw [EventInv, (engineWork_evt p c).1, (engineWork_evt p c).2]
    exact h.item9
  exact (inv_iff _).mpr ⟨(keyInv_engineWork hp h).congr rfl rfl rfl rfl, pendInv_finishEngine _,
    (resultInv_engineWork hp h).congr rfl rfl rfl rfl rfl rfl, eventInv_raise .done he⟩

/-! ### Every step -/

theorem inv_writeEffect {r : Reg} {v : Word} {c d : CoreState} (e : WriteEffect c v r d) (h : Inv c) : Inv d := by
  cases e with
  | event r e => exact inv_raise e h
  | instr hi _ he => exact inv_instrEffect he hi h
  | evt => exact inv_dismiss v h
  | ie => exact inv_writeIe v h
  | ctrHi => exact inv_writeCtrHi v h
  | ctrLo => exact inv_writeCtrLo v h
  | digest hi n => exact inv_writeDigest n v hi h
  | ignored => exact h

theorem inv_step {s t : State} (h : step s = .next t) (hs : Inv s.core) : Inv t.core := by
  obtain ht | ⟨p, -, -, hp, ht⟩ | ⟨-, ht⟩ | ⟨a, v, rest, -, -, hw⟩ := step_effect_cases h
  · rw [ht]; exact hs
  · rw [ht]; exact inv_engineStep hp hs
  · rw [ht]; exact inv_reset
  · exact inv_writeEffect hw hs

/-- Settles O15: the reset state meets each of the four parts. -/
theorem resetStateMeetsTheInvariant : Obligations.ResetStateMeetsTheInvariant := inv_reset

/-- Settles O16: each of the four things a step can do to the core keeps the invariant. -/
theorem everyStepKeepsTheInvariant : Obligations.EveryStepKeepsTheInvariant :=
  fun _ _ hs h => inv_step h hs

end Sys2Proof.Machine
end

section
/-! The rules of the whole machine (10_state.md R23, R27, R43; 20_memory.md R61): which step can clear an event, change
the key state, start the engine or change the counter, and that a busy core holds what its engine works on. -/

namespace Sys2Proof.Machine

/-! ### Events are sticky (R23) -/

/-- A core whose `EVT` only gained bits has every event that was set. -/
theorem eventSet_of_or {c d : CoreState} {m : Word} (h : d.evt = c.evt ||| m) {e : Event} (hc : eventSet e c = true) :
    eventSet e d = true := by
  simp only [eventSet] at hc
  simp only [eventSet, h, BitVec.getLsbD_or, hc, Bool.true_or]

/-- Every instruction but `CLR` only sets bits of `EVT`. -/
theorem InstrEffect.evt_or {i : Instr} {c d : CoreState} (e : InstrEffect c i d) (hi : i ≠ .clr) :
    ∃ m, d.evt = c.evt ||| m := by
  have unchanged : ∃ m, c.evt = c.evt ||| m := ⟨0, BitVec.or_zero.symm⟩
  cases e with
  | clr => exact absurd rfl hi
  | notAdmitted => exact ⟨_, rfl⟩
  | keyOverflow => exact ⟨_, rfl⟩
  | emptyKey => exact ⟨_, rfl⟩
  | keyByte _ b =>
    obtain ⟨buf, h, e⟩ := keyStore_keyFlush_frame b c
    rw [e]
    exact unchanged
  | nop | keystart | keyend | hmac | gen | trunc => exact unchanged

theorem engineStep_evt (p : EngineCmd) (c : CoreState) : (engineStep p c).evt = c.evt ||| Event.mask .done := by
  rw [engineStep, finishEngine_evt, (engineWork_evt p c).1]

/-- The host writes that clear an event. -/
theorem WriteEffect.event_cleared {r : Reg} {v : Word} {c d : CoreState} {e : Event} (w : WriteEffect c v r d)
    (hc : eventSet e c = true) (hd : eventSet e d = false) :
    (r = .cmd ∧ v = 1 ∧ c.busy = false) ∨ (r = .evt ∧ v.getLsbD e.code = true) := by
  have absurd_of_kept (hk : eventSet e d = true) : False := nomatch hd.symm.trans hk
  cases w with
  | event => exact (absurd_of_kept (eventSet_of_or rfl hc)).elim
  | @instr _ i _ hi hdec he =>
    by_cases hclr : i = .clr
    · subst hclr
      cases encode_of_decode hdec
      exact .inl ⟨rfl, rfl, hi⟩
    · obtain ⟨m, hm⟩ := he.evt_or hclr
      exact (absurd_of_kept (eventSet_of_or hm hc)).elim
  | evt =>
    rw [eventSet_dismiss, hc] at hd
    exact .inr ⟨rfl, by simpa using hd⟩
  | ie | ctrHi | ctrLo | digest | ignored => exact (absurd_of_kept hc).elim

/-- Settles O23: every other step leaves `EVT` as it is or sets bits of it. -/
theorem eventsAreSticky : Obligations.EventsAreSticky := by
  intro s t e h hs ht
  obtain e' | ⟨p, -, -, -, e'⟩ | ⟨hr, -⟩ | ⟨a, v, rest, htu, -, hw⟩ := step_effect_cases h
  · rw [e', hs] at ht
    cases ht
  · rw [eventSet_of_or (e' ▸ engineStep_evt p s.core) hs] at ht
    cases ht
  · exact .inl hr
  · obtain ⟨hr, rfl, hi⟩ | ⟨hr, hv⟩ := hw.event_cleared hs ht
    · exact .inr (.inl ⟨a, rest, htu, hr, hi⟩)
    · exact .inr (.inr ⟨a, v, rest, htu, hr, hv⟩)

/-! ### The key state (R43) -/

/-- The instructions that change the key state of an idle core. -/
theorem InstrEffect.kst_changed {i : Instr} {c d : CoreState} (e : InstrEffect c i d) (h : d.kst ≠ c.kst) :
    (i = .keystart ∧ d.kst = .keyload) ∨
    (i = .clr ∧ d.kst = .nokey) ∨
    (∃ ign b, i = .keyin ign b ∧ c.kst = .keyload ∧ c.klen = Config.klenLimit ∧ d.kst = .nokey) ∨
    (i = .keyend ∧ c.kst = .keyload ∧ c.klen = 0 ∧ d.kst = .nokey) := by
  cases e with
  | keystart => exact .inl ⟨rfl, rfl⟩
  | clr => exact .inr (.inl ⟨rfl, rfl⟩)
  | keyOverflow ign b hk hl => exact .inr (.inr (.inl ⟨ign, b, rfl, hk, hl, rfl⟩))
  | emptyKey hk hl => exact .inr (.inr (.inr ⟨rfl, hk, hl, rfl⟩))
  | keyByte _ b =>
    obtain ⟨buf, kh, e⟩ := keyStore_keyFlush_frame b c
    rw [e] at h
    exact absurd rfl h
  | nop | notAdmitted | keyend | hmac | gen | trunc => exact absurd rfl h

/-- The completions that change the key state. -/
theorem engineStep_kst_changed {p : EngineCmd} {c : CoreState} (h : (engineStep p c).kst ≠ c.kst) :
    (p = .keyend ∧ (engineStep p c).kst = .keyready) ∨
    ((p = .hmac ∨ p = .gen) ∧ (engineStep p c).kst = .nokey) := by
  cases p with
  | keyend => exact .inl ⟨rfl, rfl⟩
  | hmac => exact .inr ⟨.inl rfl, rfl⟩
  | gen => exact .inr ⟨.inr rfl, rfl⟩
  | trunc => exact absurd rfl h

/-- The host writes that change the key state. -/
theorem WriteEffect.kst_changed {r : Reg} {v : Word} {c d : CoreState} (w : WriteEffect c v r d) (h : d.kst ≠ c.kst) :
    c.busy = false ∧
      ((r = .cmd ∧ v = 0x02 ∧ d.kst = .keyload) ∨
       (r = .cmd ∧ v = 0x01 ∧ d.kst = .nokey) ∨
       (r = .keyin ∧ c.kst = .keyload ∧ c.klen = 0xFFFFFFFF ∧ d.kst = .nokey) ∨
       (r = .cmd ∧ v = 0x03 ∧ c.kst = .keyload ∧ c.klen = 0 ∧ d.kst = .nokey)) := by
  cases w with
  | instr hi hdec he =>
    refine ⟨hi, ?_⟩
    obtain ⟨rfl, hd⟩ | ⟨rfl, hd⟩ | ⟨ign, b, rfl, hk, hl, hd⟩ | ⟨rfl, hk, hl, hd⟩ := he.kst_changed h <;>
      cases encode_of_decode hdec
    · exact .inl ⟨rfl, rfl, hd⟩
    · exact .inr (.inl ⟨rfl, rfl, hd⟩)
    · exact .inr (.inr (.inl ⟨rfl, hk, hl, hd⟩))
    · exact .inr (.inr (.inr ⟨rfl, rfl, hk, hl, hd⟩))
  | event | evt | ie | ctrHi | ctrLo | digest | ignored => exact absurd rfl h

/-- Settles O51: the key state changes by a reset, by the three completions that use or make a key, and by the four
host writes of `WriteEffect.kst_changed`. -/
theorem keyStateChangesOnlyByTheTable : Obligations.KeyStateChangesOnlyByTheTable := by
  intro s t h hk
  obtain e | ⟨p, hn, hb, hp, e⟩ | ⟨hr, e⟩ | ⟨a, v, rest, htu, hwf, hw⟩ := step_effect_cases h
  · exact absurd (congrArg CoreState.kst e) hk
  · rw [e] at hk ⊢
    obtain ⟨rfl, ht⟩ | ⟨rfl | rfl, ht⟩ := engineStep_kst_changed hk
    · exact .inr (.inl ⟨hn, hb, hp, ht⟩)
    · exact .inr (.inr (.inl ⟨hn, hb, .inl hp, ht⟩))
    · exact .inr (.inr (.inl ⟨hn, hb, .inr hp, ht⟩))
  · exact .inl ⟨hr, congrArg CoreState.kst e⟩
  · obtain ⟨hi, hcases⟩ := hw.kst_changed hk
    exact .inr (.inr (.inr ⟨a, v, rest, htu, hwf, hi, hcases⟩))

/-! ### The engine (R42, R61) -/

/-- A host write to a busy core changes `EVT` and `IE` at most. -/
theorem WriteEffect.of_busy {r : Reg} {v : Word} {c d : CoreState} (w : WriteEffect c v r d) (hb : c.busy = true) :
    d = { c with evt := d.evt, ie := d.ie } := by
  cases w with
  | event | evt | ie | ignored => rfl
  | instr hi | ctrHi hi | ctrLo hi | digest hi => exact nomatch hi.symm.trans hb

/-- Settles O52: the steps left are those that do not touch the core, and host writes to a busy core. -/
theorem engineInputsAreFrozenWhileBusy : Obligations.EngineInputsAreFrozenWhileBusy := by
  intro s t h hb hn hr
  obtain e | ⟨p, hn', -⟩ | ⟨⟨rest, hr'⟩, -⟩ | ⟨a, v, rest, -, -, hw⟩ := step_effect_cases h
  · rw [e]
    exact ⟨rfl, rfl, rfl, rfl, rfl, rfl, rfl, hb, rfl⟩
  · exact absurd hn' hn
  · exact absurd hr' (hr rest)
  · rw [hw.of_busy hb]
    exact ⟨rfl, rfl, rfl, rfl, rfl, rfl, rfl, hb, rfl⟩

/-- The instruction whose work the engine does for a pending command. -/
def EngineCmd.instr : EngineCmd → Instr
  | .keyend => .keyend
  | .hmac   => .hmac
  | .trunc  => .trunc
  | .gen    => .gen

theorem encode_instr (p : EngineCmd) : encode p.instr = (.cmd, p.opcode.setWidth 32) := by cases p <;> rfl

/-- An instruction that makes an idle core busy leaves its own command pending. -/
theorem InstrEffect.pend_of_busy {i : Instr} {c d : CoreState} (e : InstrEffect c i d) (hi : c.busy = false)
    (hb : d.busy = true) : ∃ p : EngineCmd, i = p.instr ∧ d.pend = some p := by
  cases e with
  | keyend => exact ⟨.keyend, rfl, rfl⟩
  | hmac => exact ⟨.hmac, rfl, rfl⟩
  | gen => exact ⟨.gen, rfl, rfl⟩
  | trunc => exact ⟨.trunc, rfl, rfl⟩
  | clr => cases hb
  | keyByte _ b =>
    obtain ⟨buf, kh, e⟩ := keyStore_keyFlush_frame b c
    rw [e] at hb
    exact nomatch hi.symm.trans hb
  | nop | keystart | notAdmitted | keyOverflow | emptyKey => exact nomatch hi.symm.trans hb

/-- The host writes that make an idle core busy. -/
theorem WriteEffect.pend_of_busy {r : Reg} {v : Word} {c d : CoreState} (w : WriteEffect c v r d)
    (hi : c.busy = false) (hb : d.busy = true) :
    ∃ p : EngineCmd, r = .cmd ∧ v = p.opcode.setWidth 32 ∧ d.pend = some p := by
  cases w with
  | instr _ hdec he =>
    obtain ⟨p, rfl, hp⟩ := he.pend_of_busy hi hb
    cases (encode_instr p).symm.trans (encode_of_decode hdec)
    exact ⟨p, rfl, rfl, hp⟩
  | event | evt | ie | ctrHi | ctrLo | digest | ignored => exact nomatch hi.symm.trans hb

/-- Settles O53: of the four things a step can do only a host write can make an idle core busy. -/
theorem busyRisesOnlyByAnEngineCommand : Obligations.BusyRisesOnlyByAnEngineCommand := by
  intro s t h hi hb
  obtain e | ⟨p, -, hb', -⟩ | ⟨-, e⟩ | ⟨a, v, rest, htu, hwf, hw⟩ := step_effect_cases h
  · exact nomatch hi.symm.trans ((congrArg CoreState.busy e).symm.trans hb)
  · exact nomatch hi.symm.trans hb'
  · exact nomatch (congrArg CoreState.busy e).symm.trans hb
  · obtain ⟨p, hr, rfl, hp⟩ := hw.pend_of_busy hi hb
    refine ⟨a, _, rest, htu, hwf, hr, ?_, p, hp, by cases p <;> rfl⟩
    cases p <;> decide

/-! ### The counter (R27) -/

theorem InstrEffect.counter {i : Instr} {c d : CoreState} (e : InstrEffect c i d) (hi : i ≠ .clr) :
    d.ctrHi = c.ctrHi ∧ d.ctrLo = c.ctrLo := by
  cases e with
  | clr => exact absurd rfl hi
  | keyByte _ b =>
    obtain ⟨buf, kh, e⟩ := keyStore_keyFlush_frame b c
    rw [e]
    exact ⟨rfl, rfl⟩
  | nop | keystart | notAdmitted | keyOverflow | emptyKey | keyend | hmac | gen | trunc => exact ⟨rfl, rfl⟩

theorem engineStep_counter (p : EngineCmd) (c : CoreState) :
    (engineStep p c).ctrHi = c.ctrHi ∧ (engineStep p c).ctrLo = c.ctrLo := by
  cases p <;> exact ⟨rfl, rfl⟩

/-- The host writes that change the counter. -/
theorem WriteEffect.counter_changed {r : Reg} {v : Word} {c d : CoreState} (w : WriteEffect c v r d)
    (h : d.ctrHi ≠ c.ctrHi ∨ d.ctrLo ≠ c.ctrLo) :
    c.busy = false ∧
      ((r = .cmd ∧ v = 0x01) ∨
       (r = .ctrHi ∧ d.ctrHi = v ∧ d.ctrLo = c.ctrLo) ∨
       (r = .ctrLo ∧ d.ctrLo = v ∧ d.ctrHi = c.ctrHi)) := by
  have unchanged (hd : d.ctrHi = c.ctrHi ∧ d.ctrLo = c.ctrLo) : False := h.elim (· hd.1) (· hd.2)
  cases w with
  | @instr _ i _ hi hdec he =>
    by_cases hclr : i = .clr
    · subst hclr
      cases encode_of_decode hdec
      exact ⟨hi, .inl ⟨rfl, rfl⟩⟩
    · exact (unchanged (he.counter hclr)).elim
  | ctrHi hi => exact ⟨hi, .inr (.inl ⟨rfl, rfl, rfl⟩)⟩
  | ctrLo hi => exact ⟨hi, .inr (.inr ⟨rfl, rfl, rfl⟩)⟩
  | event | evt | ie | digest | ignored => exact (unchanged ⟨rfl, rfl⟩).elim

/-- Settles O54: a reset and the three host writes of `WriteEffect.counter_changed`. -/
theorem counterChangesOnlyByItsOwnWrites : Obligations.CounterChangesOnlyByItsOwnWrites := by
  intro s t h hc
  have unchanged (h : t.core.ctrHi = s.core.ctrHi ∧ t.core.ctrLo = s.core.ctrLo) : False :=
    hc.elim (· h.1) (· h.2)
  obtain e | ⟨p, -, -, -, e⟩ | ⟨hr, -⟩ | ⟨a, v, rest, htu, -, hw⟩ := step_effect_cases h
  · exact (unchanged (e ▸ ⟨rfl, rfl⟩)).elim
  · exact (unchanged (e ▸ engineStep_counter p s.core)).elim
  · exact .inl hr
  · obtain ⟨hi, hcases⟩ := hw.counter_changed hc
    exact .inr ⟨a, v, rest, htu, hi, hcases⟩

end Sys2Proof.Machine
end

section
/-! The hidden key material cannot be read (10_state.md R40; 70_reset_and_hazards.md R181): every operation but the
completions of `HMAC` and `GEN` treats two cores alike that differ only in `KBUF` and `KH`. -/

namespace Sys2Proof.Machine

theorem agreeButHidden_iff {c d : CoreState} :
    AgreeButHidden c d ↔ ∃ buf h, d = { c with kbuf := buf, kh := h } := by
  constructor
  · intro h
    refine ⟨d.kbuf, d.kh, ?_⟩
    rw [← show _ = c from h]
  · rintro ⟨buf, h, rfl⟩
    rfl

/-- `f` lets nothing of `KBUF` and `KH` into the rest of the core. -/
def Blind (f : CoreState → CoreState) : Prop :=
  ∀ (c : CoreState) (buf : Block) (h : Words5), AgreeButHidden (f c) (f { c with kbuf := buf, kh := h })

theorem Blind.agree {f : CoreState → CoreState} (hf : Blind f) {c d : CoreState} (h : AgreeButHidden c d) :
    AgreeButHidden (f c) (f d) := by
  obtain ⟨buf, kh, rfl⟩ := agreeButHidden_iff.mp h
  exact hf c buf kh

/-! ### The operations -/

theorem blind_raise (e : Event) : Blind (raise e) := fun _ _ _ => rfl

theorem blind_guarded {f : CoreState → CoreState} (hf : Blind f) : Blind (guarded f) := by
  intro c buf h
  simp only [guarded]
  split
  · rfl
  · exact hf c buf h

theorem blind_keyIn (b : Byte) : Blind (keyIn b) := by
  intro c buf h
  simp only [keyIn]
  split
  · rfl
  · split
    · rfl
    · obtain ⟨buf₁, h₁, e₁⟩ := keyStore_keyFlush_frame b c
      obtain ⟨buf₂, h₂, e₂⟩ := keyStore_keyFlush_frame b { c with kbuf := buf, kh := h }
      rw [e₁, e₂]
      rfl

theorem blind_keyEndCommand : Blind keyEndCommand := by
  intro c buf h
  simp only [keyEndCommand]
  split
  · rfl
  · split <;> rfl

theorem blind_acceptKeyed (p : EngineCmd) : Blind (acceptKeyed p) := by
  intro c buf h
  simp only [acceptKeyed]
  split <;> rfl

theorem blind_coreEffect (i : Instr) : Blind (coreEffect i) := by
  cases i with
  | keyin _ b => exact blind_keyIn b
  | keyend => exact blind_keyEndCommand
  | hmac => exact blind_acceptKeyed .hmac
  | gen => exact blind_acceptKeyed .gen
  | nop | clr | keystart | trunc => exact fun _ _ _ => rfl

theorem blind_plainWrite (r : Reg) (v : Word) : Blind (plainWrite r v) := by
  cases r with
  | ctrHi | ctrLo | digest => exact blind_guarded fun _ _ _ => rfl
  | _ => exact fun _ _ _ => rfl

theorem blind_engineStep {p : EngineCmd} (hp : ¬ (p = .hmac ∨ p = .gen)) : Blind (engineStep p) := by
  cases p with
  | keyend | trunc => exact fun _ _ _ => rfl
  | hmac => exact absurd (.inl rfl) hp
  | gen => exact absurd (.inr rfl) hp

/-- A host write is one change of the core, the same in every state, that is blind to the key material. -/
theorem hostWrite_blind (r : Reg) (v : Word) : ∃ f, Blind f ∧ ∀ s, hostWrite r v s = .next (s.mapCore f) := by
  cases hd : decode r v with
  | ok i => exact ⟨_, blind_guarded (blind_coreEffect i), fun s => by simp only [hostWrite, hd, exec_eq_guarded]⟩
  | error e =>
    cases e with
    | illegalCommand => exact ⟨_, blind_guarded (blind_raise .illcmd), fun s => by simp only [hostWrite, hd]⟩
    | plainRegister => exact ⟨_, blind_plainWrite r v, fun s => by simp only [hostWrite, hd]⟩

theorem AgreeButHidden.regRead_eq {c d : CoreState} (h : AgreeButHidden c d) (r : Reg) : regRead r d = regRead r c := by
  obtain ⟨buf, kh, rfl⟩ := agreeButHidden_iff.mp h
  cases r <;> rfl

theorem AgreeButHidden.busy_eq {c d : CoreState} (h : AgreeButHidden c d) : d.busy = c.busy := by
  obtain ⟨buf, kh, rfl⟩ := agreeButHidden_iff.mp h
  rfl

theorem AgreeButHidden.pend_eq {c d : CoreState} (h : AgreeButHidden c d) : d.pend = c.pend := by
  obtain ⟨buf, kh, rfl⟩ := agreeButHidden_iff.mp h
  rfl

/-! ### The step -/

/-- Two machines that the host cannot tell apart. -/
structure AlikeToHost (s s' : State) : Prop where
  turns : s'.turns = s.turns
  reads : s'.reads = s.reads
  core  : AgreeButHidden s.core s'.core

theorem AlikeToHost.withTurns {s s' : State} (h : AlikeToHost s s') (ts : List Turn) :
    AlikeToHost { s with turns := ts } { s' with turns := ts } := ⟨rfl, h.reads, h.core⟩

theorem AlikeToHost.mapCore {s s' : State} (h : AlikeToHost s s') {f : CoreState → CoreState} (hf : Blind f) :
    AlikeToHost (s.mapCore f) (s'.mapCore f) := ⟨h.turns, h.reads, hf.agree h.core⟩

theorem AlikeToHost.hostRead {s s' : State} (h : AlikeToHost s s') (r : Reg) :
    AlikeToHost (hostRead r s) (hostRead r s') :=
  ⟨h.turns, congrArg₂ List.cons (h.core.regRead_eq r) h.reads, h.core⟩

theorem engineTurn_of_idle {s : State} (h : s.core.busy = false) : engineTurn s = .next s := by
  simp [engineTurn, h]

theorem engineTurn_of_pend {s : State} {p : EngineCmd} (hb : s.core.busy = true) (hp : s.core.pend = some p) :
    engineTurn s = .next (s.mapCore (engineStep p)) := by simp [engineTurn, hb, hp]

theorem AlikeToHost.engineTurn {s s' t : State} (h : AlikeToHost s s')
    (hn : ¬ (s.core.pend = some .hmac ∨ s.core.pend = some .gen)) (ht : engineTurn s = .next t) :
    ∃ t', engineTurn s' = .next t' ∧ AlikeToHost t t' := by
  obtain ⟨hi, e⟩ | ⟨p, hb, hp, e⟩ | ⟨-, -, e⟩ := engineTurn_cases s <;> cases e.symm.trans ht
  · exact ⟨s', engineTurn_of_idle (h.core.busy_eq.trans hi), h⟩
  · have hblind : Blind (engineStep p) := blind_engineStep fun hp' => hn (by simpa [hp] using hp')
    exact ⟨_, engineTurn_of_pend (h.core.busy_eq.trans hb) (h.core.pend_eq.trans hp), h.mapCore hblind⟩

theorem AlikeToHost.step {s s' t : State} (h : AlikeToHost s s')
    (hn : ¬ (engineNext s ∧ (s.core.pend = some .hmac ∨ s.core.pend = some .gen))) (ht : step s = .next t) :
    ∃ t', step s' = .next t' ∧ AlikeToHost t t' := by
  cases hs : s.turns with
  | nil =>
    rw [step_of_nil hs] at ht
    rw [step_of_nil (h.turns.trans hs)]
    exact h.engineTurn (fun hp => hn ⟨.inl hs, hp⟩) ht
  | cons x rest =>
    have hs' := h.turns.trans hs
    have hrest := h.withTurns rest
    cases x with
    | engine =>
      rw [step_of_engine hs] at ht
      rw [step_of_engine hs']
      exact hrest.engineTurn (fun hp => hn ⟨.inr ⟨rest, hs⟩, hp⟩) ht
    | reset =>
      cases (step_of_reset hs).symm.trans ht
      exact ⟨_, step_of_reset hs', rfl, h.reads, rfl⟩
    | write a v =>
      cases ha : portRefusal a with
      | some r => cases (step_of_refused_write hs ha).symm.trans ht
      | none =>
        obtain ⟨f, hf, hw⟩ := hostWrite_blind a.reg v
        cases ((step_of_write hs ha).trans (hw _)).symm.trans ht
        exact ⟨_, (step_of_write hs' ha).trans (hw _), hrest.mapCore hf⟩
    | read a =>
      cases ha : portRefusal a with
      | some r => cases (step_of_refused_read hs ha).symm.trans ht
      | none =>
        cases (step_of_read hs ha).symm.trans ht
        exact ⟨_, step_of_read hs' ha, hrest.hostRead a.reg⟩
    | poll n =>
      cases (step_of_poll hs).symm.trans ht
      have e := step_of_poll hs'
      rw [h.core.busy_eq] at e
      exact ⟨_, e, (h.withTurns _).hostRead .status⟩

/-- Settles O55: the two machines stay alike to the host. -/
theorem keyMaterialIsHiddenFromTheHost : Obligations.KeyMaterialIsHiddenFromTheHost := by
  intro s s' t hturns hreads hcore hn ht
  obtain ⟨t', ht', hturns', hreads', hcore'⟩ := AlikeToHost.step ⟨hturns, hreads, hcore⟩ hn ht
  exact ⟨t', ht', hturns', hreads', hcore'⟩

end Sys2Proof.Machine
end

section
/-! A safe state always steps to a safe state (60_exceptions.md R179). -/

namespace Sys2Proof.Machine

/-- While item 1 holds the engine's turn does not fault. -/
theorem engineTurn_next {s : State} (h : Inv s.core) : ∃ f, engineTurn s = .next (s.mapCore f) := by
  obtain ⟨-, e⟩ | ⟨p, -, -, e⟩ | ⟨hb, hp, -⟩ := engineTurn_cases s
  · exact ⟨id, e⟩
  · exact ⟨_, e⟩
  · exact absurd hp (h.item1a.mp hb)

theorem afterPoll_wf (n : Nat) (busy : Bool) : ∀ x ∈ afterPoll n busy, x.wf = true := by
  cases busy <;> cases n <;> simp [afterPoll, Turn.wf]

/-- A safe state steps, and the port can carry what is then scheduled. -/
theorem step_next_of_safe {s : State} (h : Safe s) : ∃ t, step s = .next t ∧ ∀ x ∈ t.turns, x.wf = true := by
  obtain ⟨hinv, hwf⟩ := h
  cases hs : s.turns with
  | nil =>
    obtain ⟨f, e⟩ := engineTurn_next hinv
    exact ⟨_, (step_of_nil hs).trans e, hwf⟩
  | cons x rest =>
    obtain ⟨hx, hrest⟩ := List.forall_mem_cons.mp (hs ▸ hwf)
    cases x with
    | engine =>
      obtain ⟨f, e⟩ := engineTurn_next (s := { s with turns := rest }) hinv
      exact ⟨_, (step_of_engine hs).trans e, hrest⟩
    | reset => exact ⟨_, step_of_reset hs, hrest⟩
    | write a v =>
      obtain ⟨f, e⟩ := hostWrite_next a.reg v { s with turns := rest }
      exact ⟨_, (step_of_write hs (portRefusal_eq_none.mpr hx)).trans e, hrest⟩
    | read a => exact ⟨_, step_of_read hs (portRefusal_eq_none.mpr hx), hrest⟩
    | poll n =>
      exact ⟨_, step_of_poll hs, fun y hy => (List.mem_append.mp hy).elim (afterPoll_wf n _ y) (hrest y)⟩

/-- Settles O17: the step answers a next state, and every step keeps the invariant. -/
theorem safeStatesNeverStop : Obligations.SafeStatesNeverStop := by
  intro s hs
  obtain ⟨t, ht, hwf⟩ := step_next_of_safe hs
  exact ⟨t, ht, inv_step ht hs.1, hwf⟩

end Sys2Proof.Machine
end

section
/-! The register map, the reserved words and bits, and the reset values (10_state.md R20, R33, R34, R46). -/

namespace Sys2Proof

theorem Reg.access_wf (r : Reg) : r.access.wf = true := by
  have := r.index.isLt
  rw [Access.wf_iff]
  refine ⟨rfl, ?_, ?_⟩ <;> simp only [Reg.access] <;> omega

theorem Reg.reg_access (r : Reg) : r.access.reg = r := by
  simp [Reg.access, Access.reg, Reg.ofIndex_index]

theorem Access.access_reg {a : Access} (h : a.wf = true) : a.reg.access = a := by
  obtain ⟨hb, ho, hlt⟩ := (Access.wf_iff a).mp h
  obtain ⟨offset, bytes⟩ := a
  simp only [Reg.access, Access.reg, Reg.index_ofIndex, BitVec.toNat_ofNat, Access.mk.injEq] at *
  omega

/-- Settles O3: `Reg.access` and `Access.reg` are inverse to each other. -/
theorem registerMapHasNoAliases : Obligations.RegisterMapHasNoAliases :=
  ⟨fun r => ⟨r.access_wf, r.reg_access⟩, fun _ => Access.access_reg, rfl, rfl, rfl, rfl, rfl, rfl, rfl, rfl,
    by decide, rfl, rfl, rfl, rfl, by decide⟩

theorem Access.reg_of_reserved {off : Nat} (hlo : 0x44 ≤ off) (hhi : off ≤ 0x7C) :
    ∃ k, Access.reg ⟨off, 4⟩ = .reserved k := by
  have hk : off / 4 - 17 < 15 := by omega
  have hi : 17 + (off / 4 - 17) = off / 4 := by omega
  refine ⟨⟨off / 4 - 17, hk⟩, ?_⟩
  rw [← Reg.ofIndex_index (.reserved _), Reg.index, Access.reg, hi]

end Sys2Proof

namespace Sys2Proof.Machine

/-- Settles O8: an access from 0x44 to 0x7C goes to a reserved register. -/
theorem reservedWordsReadZeroAndIgnoreWrites : Obligations.ReservedWordsReadZeroAndIgnoreWrites := by
  intro s off v rest hlo hhi hal
  obtain ⟨k, hk⟩ := Access.reg_of_reserved hlo hhi
  have ha : portRefusal ⟨off, 4⟩ = none :=
    portRefusal_eq_none.mpr ((Access.wf_iff _).mpr ⟨rfl, hal, by simp only; omega⟩)
  refine ⟨fun hs => ?_, fun hs => ?_⟩
  · rw [step_of_write hs ha, hk]
    rfl
  · rw [step_of_read hs ha, hk]
    rfl

theorem hostWrite_of_readOnly {r : Reg} (hr : r = .status ∨ r = .klen ∨ r = .offset ∨ r = .bin ∨ r = .code ∨ r = .bcd)
    (v : Word) (s : State) : hostWrite r v s = .next s := by
  rcases hr with rfl | rfl | rfl | rfl | rfl | rfl <;> rfl

theorem statusWord_lt (c : CoreState) : (statusWord c).toNat < 2 ^ 5 := by
  rw [statusWord, BitVec.toNat_setWidth_of_le (by decide)]
  exact BitVec.isLt _

theorem hostWrite_of_sixBits {r : Reg} (hr : r = .evt ∨ r = .ie) {v w : Word} (h : sixBits v = sixBits w) (s : State) :
    hostWrite r v s = hostWrite r w s := by
  obtain rfl | rfl := hr
  · simp only [hostWrite, decode, State.mapCore, plainWrite, dismiss, evtCleared, h]
  · simp only [hostWrite, decode, State.mapCore, plainWrite, writeIe, h]

/-- Settles O9: the reserved bits are the ranges of R45 items 8 and 9. -/
theorem readOnlyRegistersAndReservedBits : Obligations.ReadOnlyRegistersAndReservedBits := by
  refine ⟨fun s r v rest hr hs => ?_, fun c hc => ?_, fun s r v w rest hr hv => ?_⟩
  · rw [step_of_wrTurn hs, hostWrite_of_readOnly hr]
  · have hranges := hc.item8
    exact ⟨statusWord_lt c, hc.item9.1, hc.item9.2, hranges.offset, hranges.bin, hranges.code.trans (by decide),
      hranges.top⟩
  · rw [step_of_wrTurn rfl, step_of_wrTurn rfl]
    exact hostWrite_of_sixBits hr (congrArg (BitVec.setWidth 32) hv) _

/-- Settles O13: register by register. -/
theorem resetStateIsAllZero : Obligations.ResetStateIsAllZero := by
  refine ⟨fun r => ?_, rfl, rfl, rfl, rfl, fun i => ?_, rfl, rfl, rfl⟩
  · cases r with
    | digest n => revert n; decide
    | _ => rfl
  · exact List.getD_eq_getElem?_getD.trans (List.getElem?_getD_replicate_default_eq _ 64 i)

end Sys2Proof.Machine
end

section
/-! The host's accesses at the port (20_memory.md R50 to R56): which of them the port refuses, what the step on a write
does to the core, and what a read returns. -/

namespace Sys2Proof

theorem Access.wholeWord_iff (a : Access) : a.wholeWord = true ↔ a.bytes = 4 ∧ a.offset % 4 = 0 := by
  simp only [Access.wholeWord, Bool.and_eq_true, beq_iff_eq, Config.accessBytes]

theorem Access.inWindow_iff (a : Access) : a.inWindow = true ↔ a.offset < 128 := by
  simp only [Access.inWindow, decide_eq_true_eq, Config.windowBytes]

/-- The offset alone says which register an access goes to (10_state.md R20). -/
theorem Access.reg_eq_of_offset {a : Access} {r : Reg} (h : a.offset = r.access.offset) : a.reg = r := by
  rw [← r.reg_access, Access.reg, Access.reg, h]

theorem Access.reg_of_digest {a : Access} (h : a.wf = true) (hlo : 0x20 ≤ a.offset) (hhi : a.offset ≤ 0x30) :
    ∃ n, a.reg = .digest n := by
  obtain ⟨-, hal, -⟩ := (Access.wf_iff a).mp h
  refine ⟨⟨(a.offset - 0x20) / 4, by omega⟩, Access.reg_eq_of_offset ?_⟩
  simp only [Reg.access, Reg.index, BitVec.toNat_ofNat]
  omega

theorem Access.reg_of_result {a : Access} (h : a.wf = true) (hlo : 0x34 ≤ a.offset) (hhi : a.offset ≤ 0x40) :
    a.reg = .offset ∨ a.reg = .bin ∨ a.reg = .code ∨ a.reg = .bcd := by
  obtain ⟨-, hal, -⟩ := (Access.wf_iff a).mp h
  have hoff : a.offset = 0x34 ∨ a.offset = 0x38 ∨ a.offset = 0x3C ∨ a.offset = 0x40 := by omega
  exact hoff.imp Access.reg_eq_of_offset
    (.imp Access.reg_eq_of_offset (.imp Access.reg_eq_of_offset Access.reg_eq_of_offset))

/-- A command word is an instruction or illegal. -/
theorem decodeCommand_cases (w : Word) :
    (∃ i, decodeCommand w = .ok i) ∨ decodeCommand w = .error .illegalCommand := by
  unfold decodeCommand
  split
  · split
    case h_8 => exact .inr rfl
    all_goals exact .inl ⟨_, rfl⟩
  · exact .inr rfl

theorem decode_of_decodeTableWord {nbits w : Nat} {i : Instr} (h : decodeTableWord nbits w = some i) :
    tableIndex nbits w < 32 ∧
      decode (Reg.ofIndex (BitVec.ofNat 5 (tableIndex nbits w))) (tableData nbits w) = .ok i := by
  unfold decodeTableWord at h
  split at h
  next hidx =>
    refine ⟨hidx, ?_⟩
    cases hd : decode (Reg.ofIndex (BitVec.ofNat 5 (tableIndex nbits w))) (tableData nbits w) with
    | ok j => rw [hd] at h; cases h; rfl
    | error e => rw [hd] at h; cases h
  next => cases h

end Sys2Proof

namespace Sys2Proof.Machine

/-! ### Refused accesses (R50, R52) -/

theorem portRefusal_of_not_wholeWord {a : Access} (h : a.wholeWord = false) : portRefusal a = some .notWordAccess := by
  simp [portRefusal, h]

theorem portRefusal_of_outside {a : Access} (hw : a.wholeWord = true) (ho : a.inWindow = false) :
    portRefusal a = some .outsideWindow := by
  simp [portRefusal, hw, ho]

theorem step_of_refused_access {s : State} {a : Access} {rest : List Turn} {r : Refusal}
    (h : s.turns = .read a :: rest ∨ ∃ v, s.turns = .write a v :: rest) (ha : portRefusal a = some r) :
    step s = .refused r :=
  h.elim (step_of_refused_read · ha) fun ⟨_, hw⟩ => step_of_refused_write hw ha

/-- Settles O10: the port checks the width and the alignment first and then the window. -/
theorem accessesThePortCannotCarryAreRefused : Obligations.AccessesThePortCannotCarryAreRefused := by
  intro s a rest hs
  refine ⟨fun hbad => ?_, fun hb hal hout => ?_⟩
  · have hw : ¬ a.wholeWord = true := fun h => by have := a.wholeWord_iff.mp h; omega
    exact step_of_refused_access hs (portRefusal_of_not_wholeWord (Bool.eq_false_iff.mpr hw))
  · have ho : ¬ a.inWindow = true := fun h => by have := a.inWindow_iff.mp h; omega
    exact step_of_refused_access hs
      (portRefusal_of_outside (a.wholeWord_iff.mpr ⟨hb, hal⟩) (Bool.eq_false_iff.mpr ho))

/-! ### The host's write (R56, R72) -/

theorem hostWrite_of_decode {r : Reg} {v : Word} {i : Instr} (h : decode r v = .ok i) (s : State) :
    hostWrite r v s = exec i s := by
  simp only [hostWrite, h]

theorem hostWrite_of_illegal {v : Word} (h : decodeCommand v = .error .illegalCommand) (s : State) :
    hostWrite .cmd v s = .next (s.mapCore (guarded (raise .illcmd))) := by
  simp only [hostWrite, decode, h]

/-- `withFetchWord` schedules the host's write to the register at the table's index (log entry 7). -/
theorem withFetchWord_turns {nbits w : Nat} (h : tableIndex nbits w < 32) (s : State) :
    (s.withFetchWord nbits w).turns =
      wrTurn (Reg.ofIndex (BitVec.ofNat 5 (tableIndex nbits w))) (tableData nbits w) :: s.turns := by
  simp only [State.withFetchWord, wrTurn, Reg.access, Reg.index_ofIndex, BitVec.toNat_ofNat, Nat.mod_eq_of_lt h]

/-- Settles O5: the step is a host write, and a host write of a decoded word is `exec`. -/
theorem stepRunsTheDecodedInstruction : Obligations.StepRunsTheDecodedInstruction := by
  refine ⟨fun s a v rest i hs ha hd => ?_, fun s nbits w i h => ?_⟩
  · rw [step_of_write hs (portRefusal_eq_none.mpr ha), hostWrite_of_decode hd]
  · obtain ⟨hidx, hd⟩ := decode_of_decodeTableWord h
    rw [step_of_wrTurn (withFetchWord_turns hidx s), hostWrite_of_decode hd]
    rfl

/-- The case table of R72 gives a legal command word the effect of the instruction it decodes to. -/
theorem execCmd_of_decodeCommand_ok {w : Word} {i : Instr} (h : decodeCommand w = .ok i) :
    execCmd w = coreEffect i := by
  cases i with
  | keyin ign b => cases encode_of_decodeCommand h
  | _ => cases encode_of_decodeCommand h; rfl

theorem execCmd_of_illegal {w : Word} (h : decodeCommand w = .error .illegalCommand) :
    execCmd w = raise .illcmd := by
  funext c
  unfold execCmd
  split
  · rfl
  next hlegal =>
    obtain ⟨hrsv, -⟩ := not_or.mp hlegal
    split
    case h_8 => rfl
    all_goals
      next hop =>
        rw [decodeCommand, if_pos (not_not.mp hrsv), hop] at h
        cases h

/-- The host's write, decoding the word and running `exec`, does to the core what `RegWrite` says. -/
theorem hostWrite_eq_regWrite (r : Reg) (v : Word) (s : State) :
    hostWrite r v s = .next (s.mapCore (regWrite r v)) := by
  cases r with
  | cmd =>
    obtain ⟨i, hd⟩ | hd := decodeCommand_cases v
    · rw [hostWrite_of_decode (r := .cmd) hd, exec_eq_guarded, ← execCmd_of_decodeCommand_ok hd]
      rfl
    · rw [hostWrite_of_illegal hd, ← execCmd_of_illegal hd]
      rfl
  | _ => rfl

/-- Settles O6: the step on a write is `hostWrite`. -/
theorem stepOnAHostWriteIsRegWrite : Obligations.StepOnAHostWriteIsRegWrite := by
  intro s a v rest hs ha
  rw [step_of_write hs (portRefusal_eq_none.mpr ha), hostWrite_eq_regWrite]
  rfl

/-! ### The host's read (R55) -/

theorem toNat_append_add {n m : Nat} (x : BitVec n) (y : BitVec m) : (x ++ y).toNat = x.toNat * 2 ^ m + y.toNat := by
  rw [BitVec.toNat_append, ← Nat.shiftLeft_add_eq_or_of_lt y.isLt, Nat.shiftLeft_eq]

theorem statusWord_toNat (c : CoreState) :
    (statusWord c).toNat =
      c.busy.toNat + 2 * c.kst.code.toNat + 8 * c.digvalid.toNat + 16 * c.codevalid.toNat := by
  rw [statusWord, BitVec.toNat_setWidth_of_le (by decide)]
  simp only [toNat_append_add, BitVec.toNat_ofBool]
  omega

theorem regRead_of_offset {a : Access} {r : Reg} (h : a.offset = r.access.offset) (c : CoreState) :
    regRead a.reg c = regRead r c := by
  rw [Access.reg_eq_of_offset h]

theorem regRead_of_reserved {a : Access} (h : a.wf = true) (hlo : 0x44 ≤ a.offset) (c : CoreState) :
    regRead a.reg c = 0 := by
  obtain ⟨hb, hal, hlt⟩ := (Access.wf_iff a).mp h
  obtain ⟨k, hk⟩ := Access.reg_of_reserved (off := a.offset) hlo (by omega)
  exact congrArg (regRead · c) hk

/-- While `HMAC` or `GEN` is pending the digest registers are cleared (10_state.md R45 item 10). -/
theorem regRead_digest_of_pend {c : CoreState} (h : Inv c) (hp : c.pend = some .hmac ∨ c.pend = some .gen)
    (n : Fin 5) : regRead (.digest n) c = 0 := by
  obtain ⟨-, hd⟩ := h.item10a hp
  rw [regRead, hd]
  revert n
  decide

/-- While `TRUNC` or `GEN` is pending there is no code (10_state.md R45 items 7 and 10). -/
theorem noResult_of_pend {c : CoreState} (h : Inv c) (hp : c.pend = some .trunc ∨ c.pend = some .gen) : NoResult c :=
  h.item7a (h.item10b (.inr hp.symm))

theorem regRead_result_of_noResult {c : CoreState} (h : NoResult c) {r : Reg}
    (hr : r = .offset ∨ r = .bin ∨ r = .code ∨ r = .bcd) : regRead r c = 0 := by
  obtain rfl | rfl | rfl | rfl := hr
  exacts [h.offset, h.bin, h.code, h.bcd]

/-- Settles O7: the value read is `regRead` of the register at the offset. -/
theorem hostReadFollowsRegRead : Obligations.HostReadFollowsRegRead := by
  intro s a rest hs ha
  have at_offset (r : Reg) (h : a.offset = r.access.offset) := regRead_of_offset h s.core
  refine ⟨regRead a.reg s.core, step_of_read hs (portRefusal_eq_none.mpr ha), at_offset .cmd, fun h => ?_,
    at_offset .evt, at_offset .ie, at_offset .keyin, at_offset .klen, at_offset .ctrHi, at_offset .ctrLo,
    at_offset (.digest 0), at_offset (.digest 1), at_offset (.digest 2), at_offset (.digest 3),
    at_offset (.digest 4), at_offset .offset, at_offset .bin, at_offset .code, at_offset .bcd,
    fun hlo => regRead_of_reserved ha hlo _, fun hinv hp hlo hhi => ?_, fun hinv hp hlo hhi => ?_⟩
  · rw [at_offset .status h]
    exact statusWord_toNat s.core
  · obtain ⟨n, hn⟩ := Access.reg_of_digest ha hlo hhi
    rw [hn, regRead_digest_of_pend hinv hp]
  · exact regRead_result_of_noResult (noResult_of_pend hinv hp) (Access.reg_of_result ha hlo hhi)

/-! ### The engine's turn (R60) -/

theorem step_of_engine_or_nil {s : State} {rest : List Turn}
    (h : s.turns = .engine :: rest ∨ s.turns = [] ∧ rest = []) : step s = engineTurn { s with turns := rest } := by
  obtain hs | ⟨hs, rfl⟩ := h
  · exact step_of_engine hs
  · rw [step_of_nil hs, ← hs]

/-- Settles O11: the step is the engine's turn, which an idle core ignores. -/
theorem engineStepsExactlyWhenBusy : Obligations.EngineStepsExactlyWhenBusy := by
  intro s rest hs
  rw [step_of_engine_or_nil hs]
  refine ⟨?_, fun p => ?_, rfl, rfl, rfl, rfl⟩
  · exact engineTurn_of_idle (s := { s with turns := rest })
  · exact engineTurn_of_pend (s := { s with turns := rest })

end Sys2Proof.Machine
end

section
/-! Decoding and encoding are inverse to each other, and which command words are illegal (30_encoding.md R70 to R77). -/

namespace Sys2Proof

/-- The register and word that carry an instruction decode to it (R71, R77). -/
theorem decode_encode (i : Instr) : decode (encode i).1 (encode i).2 = .ok i := by
  cases i with
  | keyin ign b =>
    have hign : (ign ++ b).extractLsb' 8 24 = ign := BitVec.extractLsb'_append_eq_left
    have hb : (ign ++ b).extractLsb' 0 8 = b := BitVec.extractLsb'_append_eq_right
    rw [encode, decode, hign, hb]
  | _ => rfl

/-- Settles O1: `encode_of_decode` and `decode_encode` are the two directions. -/
theorem decodeIsTheInverseOfEncode : Obligations.DecodeIsTheInverseOfEncode := by
  refine fun r w i => ⟨encode_of_decode, fun h => ?_⟩
  have hd := decode_encode i
  rwa [h] at hd

/-- Settles O2: each word is decoded by evaluation. -/
theorem tableWordsDecodeToTheirInstructions : Obligations.TableWordsDecodeToTheirInstructions :=
  ⟨rfl, rfl, rfl, rfl, rfl, rfl, rfl, rfl, rfl, rfl, rfl⟩

/-- The value of a command word from its fields `RSV ‖ OP` (R70). -/
theorem toNat_of_fields (w : Word) : w.toNat = (rsvField w).toNat * 2 ^ 8 + (opField w).toNat :=
  (congrArg BitVec.toNat (word_of_fields w)).trans (Machine.toNat_append_add _ _)

/-- The illegal command words of R74 are those above the last opcode, that of `GEN`. -/
theorem illegalFields_iff (w : Word) : (rsvField w ≠ 0 ∨ opField w > 6) ↔ 7 ≤ w.toNat := by
  have hw := toNat_of_fields w
  have hop : opField w > 6 ↔ 6 < (opField w).toNat := BitVec.lt_def
  have hrsv : rsvField w ≠ 0 ↔ (rsvField w).toNat ≠ 0 := BitVec.toNat_ne_iff_ne.symm
  have := (opField w).isLt
  rw [hop, hrsv]
  omega

end Sys2Proof

namespace Sys2Proof.Machine

theorem execCmd_of_seven_le {w : Word} (h : 7 ≤ w.toNat) (c : CoreState) : execCmd w c = raise .illcmd c :=
  if_pos ((illegalFields_iff w).mpr h)

/-- The step on a script's `wr CMD, w`, legal or not (30_encoding.md R72, R80). -/
theorem step_of_wrCmd {s : State} {w : Word} {rest : List Turn} (h : s.turns = wrTurn .cmd w :: rest) :
    step s = .next { s with turns := rest, core := guarded (execCmd w) s.core } :=
  (step_of_wrTurn h).trans (hostWrite_eq_regWrite .cmd w _)

/-- Settles O4: the guard decides between `BUSYWR` and the case table of R72, whose illegal words are those from 7. -/
theorem illegalWordsRaiseIllcmdOnly : Obligations.IllegalWordsRaiseIllcmdOnly := by
  intro s w rest hs
  refine ⟨illegalFields_iff w, fun hidle hw => ?_, fun hbusy => ?_⟩
  · rw [step_of_wrCmd hs, guarded_of_idle hidle, execCmd_of_seven_le hw]
    rfl
  · rw [step_of_wrCmd hs, guarded_of_busy hbusy]
    rfl

end Sys2Proof.Machine
end

section
/-! The host's `wait` (30_encoding.md R81): the reads that find the core busy, the engine's step, the read that finds
it idle. -/

namespace Sys2Proof.Machine

@[simp] theorem engineStep_busy (p : EngineCmd) (c : CoreState) : (engineStep p c).busy = false := rfl

/-- A read of `STATUS` that finds the core idle ends the `wait`. -/
theorem step_of_poll_idle {s : State} {n : Nat} {rest : List Turn} (h : s.turns = .poll n :: rest)
    (hb : s.core.busy = false) :
    step s = .next { s with turns := rest, reads := statusWord s.core :: s.reads } := by
  rw [step_of_poll h, hb]
  rfl

/-- A read of `STATUS` that finds the core busy leaves the rest of the `wait` scheduled (log entry 6). -/
theorem step_of_poll_busy {s : State} {n : Nat} {rest : List Turn} (h : s.turns = .poll n :: rest)
    (hb : s.core.busy = true) :
    step s = .next { s with turns := afterPoll n true ++ rest, reads := statusWord s.core :: s.reads } := by
  rw [step_of_poll h, hb]
  rfl

/-- The reads of a `wait` that find the core busy, up to the turn of the engine. -/
theorem run_of_poll_busy {s : State} {n : Nat} {rest : List Turn} (h : s.turns = .poll n :: rest)
    (hb : s.core.busy = true) :
    run (n + 1) s = .next { s with
      turns := .engine :: .poll 0 :: rest
      reads := List.replicate (n + 1) (statusWord s.core) ++ s.reads } := by
  induction n generalizing s with
  | zero => exact run_succ_of_step (step_of_poll_busy h hb) 0
  | succ n ih =>
    have hrest := ih (s := { s with turns := .poll n :: rest, reads := statusWord s.core :: s.reads }) rfl hb
    refine (run_succ_of_step (step_of_poll_busy h hb) (n + 1)).trans (hrest.trans ?_)
    rw [List.replicate_succ' (n := n + 1), List.append_assoc]
    rfl

/-- The engine's step on a pending command, and the one read of `STATUS` that a `wait` still needs after it. -/
theorem run_of_engine_poll {s : State} {n : Nat} {rest : List Turn} {p : EngineCmd}
    (h : s.turns = .engine :: .poll n :: rest) (hb : s.core.busy = true) (hp : s.core.pend = some p) :
    run 2 s = .next { s with
      turns := rest
      core := engineStep p s.core
      reads := statusWord (engineStep p s.core) :: s.reads } := by
  have hengine := (step_of_engine h).trans (engineTurn_of_pend hb hp)
  rw [run_succ_of_step hengine, run_succ_of_step (step_of_poll_idle rfl (engineStep_busy p s.core))]
  rfl

/-- Settles O14: a `wait` on a busy core is its busy reads and then the engine's step with the last read. -/
theorem waitReturnsAfterTheEngineStep : Obligations.WaitReturnsAfterTheEngineStep := by
  intro s n rest hs
  refine ⟨fun hb => ?_, fun p hb hp => ?_, fun p hb hp => ?_⟩
  · exact run_succ_of_step (step_of_poll_idle hs hb) 0
  · rw [run_add (run_of_poll_busy hs hb) 2]
    exact run_of_engine_poll rfl hb hp
  · rw [hs]
    exact run_of_engine_poll rfl hb hp

end Sys2Proof.Machine
end

section
/-! The control operations (40_control.md R85 to R91): the writes to `EVT` and `IE`, which a busy core performs too, the
guarded writes to the counter and digest registers, and the commands `NOP` and `CLR`. -/

namespace Sys2Proof.Machine

/-! ### The step on a script's `wr REG, value` -/

/-- The step on `wr REG, value` performs the `RegWrite` of the word (20_memory.md R56). -/
theorem step_of_wrTurn_regWrite {s : State} {r : Reg} {v : Word} {rest : List Turn} (h : s.turns = wrTurn r v :: rest) :
    step s = .next { s with turns := rest, core := regWrite r v s.core } :=
  (step_of_wrTurn h).trans (hostWrite_eq_regWrite r v _)

theorem raise_busywr (c : CoreState) : raise .busywr c = { c with evt := c.evt ||| 0x10 } := rfl

theorem regWrite_of_busy {r : Reg} (hr : guardedReg r = true) (v : Word) {c : CoreState} (hb : c.busy = true) :
    regWrite r v c = raise .busywr c := by
  cases r with
  | cmd | keyin | ctrHi | ctrLo | digest n => exact guarded_of_busy hb
  | _ => cases hr

theorem step_of_wrTurn_busy {s : State} {r : Reg} {v : Word} {rest : List Turn} (h : s.turns = wrTurn r v :: rest)
    (hr : guardedReg r = true) (hb : s.core.busy = true) :
    step s = .next { s with turns := rest, core := { s.core with evt := s.core.evt ||| 0x10 } } := by
  rw [step_of_wrTurn_regWrite h, regWrite_of_busy hr v hb, raise_busywr]

theorem regWrite_ctrHi_of_idle (v : Word) {c : CoreState} (hi : c.busy = false) :
    regWrite .ctrHi v c = writeCtrHi v c := guarded_of_idle hi

theorem regWrite_ctrLo_of_idle (v : Word) {c : CoreState} (hi : c.busy = false) :
    regWrite .ctrLo v c = writeCtrLo v c := guarded_of_idle hi

theorem regWrite_digest_of_idle (n : Fin 5) (v : Word) {c : CoreState} (hi : c.busy = false) :
    regWrite (.digest n) v c = writeDigest n v c := guarded_of_idle hi

/-! ### The event registers (R88, R89) -/

theorem evtCleared_getLsbD (evt v : Word) (k : Nat) :
    (evtCleared evt v).getLsbD k = (evt.getLsbD k && !(decide (k < 6) && v.getLsbD k)) := by
  rw [evtCleared, BitVec.getLsbD_and, BitVec.getLsbD_not, sixBits_getLsbD]
  by_cases hk : k < 32
  · rw [decide_eq_true hk, Bool.true_and]
  · rw [BitVec.getLsbD_of_ge evt k (by omega), Bool.false_and, Bool.false_and]

/-- `irq` looks at bits 5:0 of `EVT` and `IE` (60_exceptions.md R176). -/
theorem irq_iff_bits (c : CoreState) :
    irq c = true ↔ ∃ k < 6, c.evt.getLsbD k = true ∧ c.ie.getLsbD k = true := by
  have hbit (k : Nat) (hk : k < 6) : (c.evt.extractLsb' 0 6 &&& c.ie.extractLsb' 0 6).getLsbD k =
      (c.evt.getLsbD k && c.ie.getLsbD k) := by
    simp only [BitVec.getLsbD_and, BitVec.getLsbD_extractLsb', hk, decide_true, Bool.true_and, Nat.zero_add]
  rw [irq, bne_iff_ne]
  constructor
  · intro hne
    by_contra hno
    refine hne (BitVec.eq_of_getLsbD_eq fun k hk => ?_)
    rw [hbit k hk, BitVec.getLsbD_zero, ← Bool.not_eq_true, Bool.and_eq_true]
    exact fun h => hno ⟨k, hk, h⟩
  · rintro ⟨k, hk, hevt, hie⟩ hzero
    have hset := hbit k hk
    rw [hzero, BitVec.getLsbD_zero, hevt, hie] at hset
    cases hset

/-- Settles O24: the write is `dismiss`, busy or not. -/
theorem writingEvtClearsTheBitsWritten : Obligations.WritingEvtClearsTheBitsWritten :=
  fun s v _ hs => ⟨evtCleared s.core.evt v, step_of_wrTurn_regWrite hs, evtCleared_getLsbD s.core.evt v⟩

/-- Settles O25: the write is `writeIe`, busy or not, and `irq` is a function of the new core. -/
theorem writingIeStoresSixBits : Obligations.WritingIeStoresSixBits := by
  refine fun s v rest hs => ⟨sixBits v, step_of_wrTurn_regWrite hs, sixBits_getLsbD v, (irq_iff_bits _).trans ?_⟩
  refine exists_congr fun k => and_congr_right fun hk => ?_
  rw [sixBits_getLsbD, decide_eq_true hk, Bool.true_and]

/-! ### The counter and digest registers (R90, R91) -/

/-- Settles O27: the guard decides between the store and `BUSYWR`. -/
theorem counterWritesStoreTheWord : Obligations.CounterWritesStoreTheWord := by
  refine fun s v rest => ⟨fun hi hs => ?_, fun hi hs => ?_, fun hb hs => ?_⟩
  · rw [step_of_wrTurn_regWrite hs, regWrite_ctrHi_of_idle v hi, writeCtrHi]
  · rw [step_of_wrTurn_regWrite hs, regWrite_ctrLo_of_idle v hi, writeCtrLo]
  · exact hs.elim (step_of_wrTurn_busy · rfl hb) (step_of_wrTurn_busy · rfl hb)

theorem Words5.get_set (d : Words5) (n m : Fin 5) (v : Word) :
    Words5.get (Words5.set d n v) m = if m = n then v else Words5.get d m := by
  fin_cases n <;> fin_cases m <;> rfl

/-- Settles O28: the guard decides between `writeDigest` and `BUSYWR`. -/
theorem digestWritesInvalidateTheResult : Obligations.DigestWritesInvalidateTheResult := by
  refine fun s n v rest hs => ⟨fun hi => ?_, step_of_wrTurn_busy hs rfl⟩
  refine ⟨Words5.set s.core.digest n v, fun m => Words5.get_set s.core.digest n m v, ?_⟩
  rw [step_of_wrTurn_regWrite hs, regWrite_digest_of_idle n v hi, writeDigest, clearCode]

/-! ### `NOP` and `CLR` (R85, R86) -/

theorem exec_of_idle (i : Instr) {s : State} (hi : s.core.busy = false) :
    exec i s = .next { s with core := coreEffect i s.core } := by
  rw [exec_eq_guarded, State.mapCore, guarded_of_idle hi]

/-- A busy core drops every instruction (20_memory.md R56; 60_exceptions.md R174). -/
theorem exec_of_busy (i : Instr) {s : State} (hb : s.core.busy = true) :
    exec i s = .next { s with core := { s.core with evt := s.core.evt ||| 0x10 } } := by
  rw [exec_eq_guarded, State.mapCore, guarded_of_busy hb, raise_busywr]

/-- Settles O29: on an idle core `NOP` has no effect. -/
theorem nopChangesNothing : Obligations.NopChangesNothing :=
  fun _ => ⟨exec_of_idle .nop, exec_of_busy .nop⟩

theorem irq_reset : irq CoreState.reset = false := by decide

/-- Settles O30: on an idle core `CLR` leads to `ResetState`, in which no event is set. -/
theorem clrPutsTheCoreIntoResetState : Obligations.ClrPutsTheCoreIntoResetState := by
  refine fun s => ⟨exec_of_idle .clr, exec_of_busy .clr, fun t hi ht => ?_⟩
  rw [exec_of_idle .clr hi] at ht
  cases ht
  exact irq_reset

end Sys2Proof.Machine
end

section
/-! The key commands (41_key.md R96 to R105): what `KEYSTART`, `KEYIN` and `KEYEND` do to the whole core, and the key
that `KBUF`, `KH` and `KLEN` hold along a key entry and after its completion. -/

namespace Sys2Proof.Machine

/-! ### `KEYSTART` (R96) -/

/-- Settles O31: on an idle core the command is `KeyStart`, whatever the key state. -/
theorem keystartBeginsAnEmptyKey : Obligations.KeystartBeginsAnEmptyKey :=
  fun _ => ⟨exec_of_idle .keystart, exec_of_busy .keystart⟩

/-! ### `KEYIN` (R98) -/

theorem eq_klenLimit_iff (w : Word) : w = Config.klenLimit ↔ w.toNat = 2 ^ 32 - 1 :=
  BitVec.toNat_inj.symm

theorem ne_klenLimit_of_lt {w : Word} (h : w.toNat < 2 ^ 32 - 1) : w ≠ Config.klenLimit :=
  mt (eq_klenLimit_iff w).mp h.ne

theorem keyIn_of_not_keyload (b : Byte) {c : CoreState} (hk : c.kst ≠ .keyload) : keyIn b c = raise .seq c :=
  if_pos hk

theorem keyIn_of_limit (b : Byte) {c : CoreState} (hk : c.kst = .keyload) (hl : c.klen = Config.klenLimit) :
    keyIn b c = raise .keyovf (zeroiseKey c) :=
  (if_neg (not_not_intro hk)).trans (if_pos hl)

theorem keyIn_of_room (b : Byte) {c : CoreState} (hk : c.kst = .keyload) (hl : c.klen ≠ Config.klenLimit) :
    keyIn b c = keyStore b (keyFlush c) :=
  (if_neg (not_not_intro hk)).trans (if_neg hl)

/-- What the accepted byte writes outside `KBUF`. -/
theorem keyStore_keyFlush_eq (b : Byte) (c : CoreState) : keyStore b (keyFlush c) = { c with
    klen := c.klen + 1
    kbuf := (keyStore b (keyFlush c)).kbuf
    kh := if 64 ≤ c.klen.toNat ∧ c.klen.toNat % 64 = 0 then compress c.kh c.kbuf else c.kh } := by
  obtain ⟨hfull, e⟩ | ⟨hfull, e⟩ := keyFlush_cases c
  · rw [e, if_pos hfull]; rfl
  · rw [e, if_neg hfull]; rfl

theorem keyStore_kbuf (b : Byte) (c : CoreState) (j : Fin 64) :
    (keyStore b c).kbuf[j] = if j.val = c.klen.toNat % 64 then b else c.kbuf[j] := by
  simp only [keyStore, Fin.getElem_fin, Vector.getElem_set, eq_comm]

theorem zeroBlock_getElem (j : Fin 64) : zeroBlock[j] = 0 := Vector.getElem_replicate j.isLt

/-- `KBUF` after the accepted byte: the byte at its index, beside it what the flush left. -/
theorem keyStore_keyFlush_kbuf (b : Byte) (c : CoreState) (j : Fin 64) :
    (keyStore b (keyFlush c)).kbuf[j] =
      if j.val = c.klen.toNat % 64 then b
      else if 64 ≤ c.klen.toNat ∧ c.klen.toNat % 64 = 0 then 0 else c.kbuf[j] := by
  rw [keyStore_kbuf]
  obtain ⟨hfull, e⟩ | ⟨hfull, e⟩ := keyFlush_cases c
  · rw [e, if_pos hfull, zeroBlock_getElem]
  · rw [e, if_neg hfull]

/-- Settles O32: an idle core takes one of the three outcomes of `KeyIn`; the store changes one byte of what the flush
leaves. -/
theorem keyinAppendsTheByte : Obligations.KeyinAppendsTheByte := by
  refine fun s ign b => ⟨fun hi hk hl => ?_, fun hi hk => ?_, fun hi hk hl => ?_, exec_of_busy _⟩
  · have hroom : s.core.klen ≠ Config.klenLimit := ne_klenLimit_of_lt hl
    have hsucc : s.core.klen + 1 = BitVec.ofNat 32 (s.core.klen.toNat + 1) := BitVec.eq_of_toNat_eq (by simp)
    refine ⟨(keyStore b (keyFlush s.core)).kbuf, _, ?_, rfl, keyStore_keyFlush_kbuf b s.core⟩
    rw [exec_of_idle _ hi, coreEffect, keyIn_of_room b hk hroom, ← hsucc, ← keyStore_keyFlush_eq]
  · rw [exec_of_idle _ hi, coreEffect, keyIn_of_not_keyload b hk]
    rfl
  · rw [exec_of_idle _ hi, coreEffect, keyIn_of_limit b hk ((eq_klenLimit_iff _).mpr hl)]
    rfl

/-! ### `KEYEND`, acceptance (R101) -/

theorem keyEndCommand_of_not_keyload {c : CoreState} (hk : c.kst ≠ .keyload) : keyEndCommand c = raise .seq c :=
  if_pos hk

theorem keyEndCommand_of_empty {c : CoreState} (hk : c.kst = .keyload) (hl : c.klen = 0) :
    keyEndCommand c = raise .invkey (zeroiseKey c) :=
  (if_neg (not_not_intro hk)).trans (if_pos hl)

theorem keyEndCommand_of_key {c : CoreState} (hk : c.kst = .keyload) (hl : c.klen ≠ 0) :
    keyEndCommand c = startEngine .keyend c :=
  (if_neg (not_not_intro hk)).trans (if_neg hl)

/-- Settles O33: an idle core takes one of the three outcomes of the acceptance. -/
theorem keyendIsAcceptedWithAKey : Obligations.KeyendIsAcceptedWithAKey := by
  refine fun s => ⟨fun hi hk hl => ?_, fun hi hk hl => ?_, fun hi hk => ?_, exec_of_busy .keyend⟩
  · rw [exec_of_idle _ hi, coreEffect, keyEndCommand_of_key hk hl, startEngine]
  · rw [exec_of_idle _ hi, coreEffect, keyEndCommand_of_empty hk hl]
    rfl
  · rw [exec_of_idle _ hi, coreEffect, keyEndCommand_of_not_keyload hk]
    rfl

/-! ### `KEYEND`, completion (R104) -/

/-- The step of an engine that has the turn and a command pending (R60). -/
theorem step_of_engineNext {s : State} {p : EngineCmd} (hn : engineNext s) (hb : s.core.busy = true)
    (hp : s.core.pend = some p) :
    step s = .next { s with turns := s.turns.tail, core := engineStep p s.core } := by
  have hturn : s.turns = .engine :: s.turns.tail ∨ s.turns = [] ∧ s.turns.tail = [] := by
    obtain ht | ⟨rest, ht⟩ := hn <;> simp [ht]
  rw [step_of_engine_or_nil hturn]
  exact engineTurn_of_pend (s := { s with turns := s.turns.tail }) hb hp

theorem keyEndComplete_kbuf_of_le {c : CoreState} (h : c.klen.toNat ≤ 64) : (keyEndComplete c).kbuf = c.kbuf :=
  if_neg (Nat.not_lt.mpr h)

/-- A long key's block is a digest of 20 bytes with zeros behind it. -/
theorem keyEndComplete_kbuf_of_gt {c : CoreState} (h : 64 < c.klen.toNat) :
    (keyEndComplete c).kbuf.toList = sha1Fin c.kh (keyTail c) c.klen.toNat ++ List.replicate 44 0 := by
  have hd : (sha1Fin c.kh (keyTail c) c.klen.toNat).length = 20 := bytesOfWords_length _
  rw [keyEndComplete, if_pos h, blockOf_toList_of_le (by omega), hd]

theorem keyTail_of_gt {c : CoreState} (h : 64 < c.klen.toNat) :
    keyTail c = c.kbuf.toList.take ((c.klen.toNat - 1) % 64 + 1) := by
  rw [keyTail, tailLength, if_neg (Nat.not_le.mpr h)]

/-- Settles O34: the engine's step is `KeyEndComplete` and `finishEngine`. -/
theorem keyendCompletionFormsTheKeyBlock : Obligations.KeyendCompletionFormsTheKeyBlock := by
  refine fun s hn hb hp =>
    ⟨(keyEndComplete s.core).kbuf, step_of_engineNext hn hb hp, keyEndComplete_kbuf_of_le, fun hl => ?_⟩
  rw [keyEndComplete_kbuf_of_gt hl, keyTail_of_gt hl]

/-! ### The key that the core holds (R99, R105) -/

/-- Settles O35: `KeyStart` leaves the empty key, and `KeyIn` stores its byte behind the key entered so far. -/
theorem keyEntryTracksTheKeyBytes : Obligations.KeyEntryTracksTheKeyBytes := by
  refine ⟨fun s hi => ⟨_, exec_of_idle .keystart hi, keyEntered_nil rfl rfl rfl, rfl, hi⟩, ?_⟩
  intro s k ign b hi hk hkey hlen
  have hroom : s.core.klen ≠ Config.klenLimit := ne_klenLimit_of_lt (hkey.klen ▸ hlen)
  obtain ⟨buf, h, hframe⟩ := keyStore_keyFlush_frame b s.core
  refine ⟨{ s with core := keyStore b (keyFlush s.core) }, ?_, keyEntered_concat hkey hroom b, ?_, ?_⟩
  · rw [exec_of_idle _ hi, coreEffect, keyIn_of_room b hk hroom]
  · rw [hframe]; exact hk
  · rw [hframe]; exact hi

theorem keyReady_finishEngine {k : List Byte} {c : CoreState} (h : KeyReady k c) :
    KeyReady k (finishEngine c) := ⟨h.klen, h.nonempty, h.kh, h.kbuf⟩

/-- Settles O36: the completion makes the key block of the key entered, and ending the engine's step keeps it. -/
theorem keyendCompletionYieldsK0 : Obligations.KeyendCompletionYieldsK0 :=
  fun _ _ hn hb hp hkey hpos =>
    have hready := keyReady_keyEndComplete hkey (hkey.klen ▸ hpos)
    ⟨_, step_of_engineNext hn hb hp, rfl, keyReady_finishEngine hready⟩

end Sys2Proof.Machine
end

section
/-! SHA-1 (42_hmac_sha1.md R112 to R118): the message schedule, the eighty rounds of the compression, the blocks of the
padding. -/

namespace Sys2Proof.Machine

/-! ### Words and rotations -/

theorem be32_toNat (b0 b1 b2 b3 : Byte) :
    (be32 b0 b1 b2 b3).toNat =
      b0.toNat * 2 ^ 24 + b1.toNat * 2 ^ 16 + b2.toNat * 2 ^ 8 + b3.toNat := by
  simp only [be32, toNat_append_add]
  omega

theorem rotl_eq_rotateLeft (x : Word) {n : Nat} (h : n < 32) : rotl x n = x.rotateLeft n := by
  rw [rotl, BitVec.rotateLeft_def, Nat.mod_eq_of_lt h]

/-! ### The message schedule (R112, R113) -/

theorem blockWords_length (b : Block) : (blockWords b).length = 16 := by
  rw [blockWords, List.length_map, List.length_range]

theorem blockWords_getD (b : Block) {t : Nat} (h : t < 16) : (blockWords b).getD t 0 = be32At b.toList (4 * t) := by
  rw [blockWords, List.getD_eq_getElem _ _ (by simpa using h), List.getElem_map, List.getElem_range]

/-- The words already in the schedule stay. -/
theorem extendSchedule_eq_append (n : Nat) (w : List Word) : ∃ rest, extendSchedule n w = w ++ rest := by
  induction n generalizing w with
  | zero => exact ⟨[], (List.append_nil w).symm⟩
  | succ n ih =>
    obtain ⟨rest, hrest⟩ := ih (w ++ [nextWord w])
    exact ⟨nextWord w :: rest, by rw [extendSchedule, hrest, List.append_assoc, List.singleton_append]⟩

/-- Each added word is the `nextWord` of those before it. -/
theorem extendSchedule_getD (n : Nat) (w : List Word) {t : Nat} (hlo : w.length ≤ t) (hhi : t < w.length + n) :
    (extendSchedule n w).getD t 0 = nextWord ((extendSchedule n w).take t) := by
  induction n generalizing w with
  | zero => omega
  | succ n ih =>
    obtain rfl | hlt := hlo.eq_or_lt
    · obtain ⟨rest, hrest⟩ := extendSchedule_eq_append n (w ++ [nextWord w])
      rw [extendSchedule, hrest, List.append_assoc, List.take_left, List.getD_append_right _ _ _ _ le_rfl,
        Nat.sub_self]
      rfl
    · exact ih (w ++ [nextWord w]) (by simpa using hlt) (by simp; omega)

theorem extendSchedule_length (n : Nat) (w : List Word) : (extendSchedule n w).length = w.length + n := by
  induction n generalizing w with
  | zero => rfl
  | succ n ih => rw [extendSchedule, ih, List.length_append, List.length_singleton, Nat.add_assoc, Nat.add_comm 1]

/-- The recurrence read off a list that holds the word and those before it. -/
theorem nextWord_take {w : List Word} {t : Nat} (hpos : 0 < t) (h : t ≤ w.length) :
    nextWord (w.take t) =
      rotl (w.getD (t - 3) 0 ^^^ w.getD (t - 8) 0 ^^^ w.getD (t - 14) 0 ^^^ w.getD (t - 16) 0) 1 := by
  have hget (k : Nat) (hk : k < t) : (w.take t).getD k 0 = w.getD k 0 := by
    rw [List.getD_eq_getElem?_getD, List.getElem?_take_of_lt hk, ← List.getD_eq_getElem?_getD]
  rw [nextWord, List.length_take, Nat.min_eq_left h, hget _ (by omega), hget _ (by omega), hget _ (by omega),
    hget _ (by omega)]

theorem schedule_getD_of_lt (b : Block) {t : Nat} (h : t < 16) :
    (schedule b).getD t 0 = be32At b.toList (4 * t) := by
  obtain ⟨rest, hrest⟩ := extendSchedule_eq_append 64 (blockWords b)
  rw [schedule, hrest, List.getD_append _ _ _ _ (by rwa [blockWords_length]), blockWords_getD b h]

theorem schedule_getD_of_ge (b : Block) {t : Nat} (hlo : 16 ≤ t) (hhi : t < 80) :
    (schedule b).getD t 0 =
      ((schedule b).getD (t - 3) 0 ^^^ (schedule b).getD (t - 8) 0 ^^^ (schedule b).getD (t - 14) 0
        ^^^ (schedule b).getD (t - 16) 0).rotateLeft 1 := by
  have hlen := blockWords_length b
  have hnext : (schedule b).getD t 0 = nextWord ((schedule b).take t) :=
    extendSchedule_getD 64 (blockWords b) (by omega) (by omega)
  have hall : t ≤ (schedule b).length := by rw [schedule, extendSchedule_length]; omega
  rw [hnext, nextWord_take (by omega) hall, rotl_eq_rotateLeft _ (by decide)]

/-! ### The rounds (R114 to R116) -/

theorem sha1Rounds_zero (h : Words5) (b : Block) : sha1Rounds h b 0 = h := rfl

theorem sha1Rounds_succ (h : Words5) (b : Block) (t : Nat) :
    sha1Rounds h b (t + 1) = sha1Round (schedule b) (sha1Rounds h b t) t := by
  simp only [sha1Rounds, List.range_succ, List.foldl_append, List.foldl_cons, List.foldl_nil]

theorem sha1Round_eq (w : List Word) (v : Words5) (t : Nat) :
    sha1Round w v t =
      ⟨v.w0.rotateLeft 5 + roundFun t v.w1 v.w2 v.w3 + v.w4 + roundConst t + w.getD t 0, v.w0, v.w1.rotateLeft 30,
        v.w2, v.w3⟩ := by
  rw [sha1Round, rotl_eq_rotateLeft _ (by decide), rotl_eq_rotateLeft _ (by decide)]

/-- The function and the constant of each range of rounds (R114). -/
theorem round_ranges (t : Nat) (b c d : Word) :
    (t ≤ 19 → roundFun t b c d = (b &&& c) ||| (~~~ b &&& d) ∧ roundConst t = 0x5A827999) ∧
    (20 ≤ t → t ≤ 39 → roundFun t b c d = b ^^^ c ^^^ d ∧ roundConst t = 0x6ED9EBA1) ∧
    (40 ≤ t → t ≤ 59 →
      roundFun t b c d = (b &&& c) ||| (b &&& d) ||| (c &&& d) ∧ roundConst t = 0x8F1BBCDC) ∧
    (60 ≤ t → roundFun t b c d = b ^^^ c ^^^ d ∧ roundConst t = 0xCA62C1D6) := by
  refine ⟨fun h => ?_, fun h₁ h₂ => ?_, fun h₁ h₂ => ?_, fun h => ?_⟩
  · simp [roundFun, roundConst, show t < 20 by omega]
  · simp [roundFun, roundConst, show ¬ t < 20 by omega, show t < 40 by omega]
  · simp [roundFun, roundConst, show ¬ t < 20 by omega, show ¬ t < 40 by omega, show t < 60 by omega]
  · simp [roundFun, roundConst, show ¬ t < 20 by omega, show ¬ t < 40 by omega, show ¬ t < 60 by omega]

/-- Settles O37: `W` is the message schedule, and `V` the working variables after each number of rounds. -/
theorem compressFollowsItsRounds : Obligations.CompressFollowsItsRounds := by
  refine fun h b => ⟨fun t => (schedule b).getD t 0, sha1Rounds h b, fun t ht => ?_,
    fun t => schedule_getD_of_ge b, sha1Rounds_zero h b, fun t _ => ⟨_, _, ?_, round_ranges t _ _ _⟩, rfl⟩
  · exact (congrArg BitVec.toNat (schedule_getD_of_lt b ht)).trans (be32_toNat _ _ _ _)
  · rw [sha1Rounds_succ, sha1Round_eq]

/-! ### The padding (R117) -/

theorem blockOf_toList_of_length {s : List Byte} (h : s.length = 64) : (blockOf s).toList = s := by
  rw [blockOf_toList_of_le h.le, h, Nat.sub_self, List.replicate_zero, List.append_nil]

theorem blockAt_toList {s : List Byte} {i : Nat} (h : 64 * (i + 1) ≤ s.length) :
    (blockAt s i).toList = (s.drop (64 * i)).take 64 := by
  rw [blockAt, blockOf_toList, List.take_append_of_le_length (by rw [List.length_drop]; omega)]

/-- The blocks of a sequence, one after another, are the sequence. -/
theorem flatMap_blockAt {s : List Byte} {n : Nat} (h : 64 * n ≤ s.length) :
    ((List.range n).map (blockAt s)).flatMap (fun b => b.toList) = s.take (64 * n) := by
  induction n with
  | zero => rfl
  | succ n ih =>
    rw [List.range_succ, List.map_append, List.flatMap_append, ih (by omega), List.map_singleton,
      List.flatMap_singleton, blockAt_toList h, Nat.mul_succ, List.take_add]

theorem padBlocks_length (tail : List Byte) (total : Nat) :
    (padBlocks tail total).length = (padBytes tail total).length / 64 := by
  rw [padBlocks, List.length_map, List.length_range]

theorem padBlocks_flatMap {tail : List Byte} {total : Nat} (h : (padBytes tail total).length % 64 = 0) :
    (padBlocks tail total).flatMap (fun b => b.toList) = padBytes tail total := by
  rw [padBlocks, flatMap_blockAt (by omega), List.take_of_length_le (by omega)]

/-- Settles O38: the `z` of the padding is `padZeros`, and it makes the padded length a multiple of 64. -/
theorem paddingFillsOneOrTwoBlocks : Obligations.PaddingFillsOneOrTwoBlocks := by
  intro tail total htail _
  have hz : padZeros tail.length = (119 - tail.length) % 64 := rfl
  have hlen := padBytes_length tail total
  refine ⟨padZeros tail.length, by omega, by omega, padBlocks_flatMap (by omega), fun h => ?_, fun h => ?_⟩
  · rw [padBlocks_length]; omega
  · rw [padBlocks_length]; omega

end Sys2Proof.Machine
end

section
/-! HMAC (42_hmac_sha1.md R121 to R126; 44_gen_and_host.md R150): the four compressions of an 8-byte message, the
acceptance of `HMAC` and `GEN`, the completion of `HMAC`. -/

namespace Sys2Proof.Machine

/-! ### HMAC of an 8-byte message (R121, R122) -/

theorem xorBlock_toList (b : Block) (p : Byte) : (xorBlock b p).toList = b.toList.map (· ^^^ p) := Vector.toList_map

/-- A tail that leaves room for the padding is hashed by one compression (R117, R118). -/
theorem sha1FinWords_of_short {tail : List Byte} (ht : tail.length ≤ 55) (h : Words5) (total : Nat) :
    sha1FinWords h tail total = compress h (blockOf (padBytes tail total)) := by
  have hone : (padBytes tail total).length / 64 = 1 := by rw [padBytes_length, padZeros]; omega
  rw [sha1FinWords, padBlocks, hone]
  rfl

/-- SHA-1 of one block and a short tail is two compressions. -/
theorem sha1_block_append (b : Block) {tail : List Byte} (ht : tail.length ≤ 55) :
    sha1 (b.toList ++ tail) =
      bytesOfWords (compress (compress sha1Iv b) (blockOf (padBytes tail (64 + tail.length)))) := by
  have hb : b.toList.length = 64 := b.length_toList
  have hlen : (b.toList ++ tail).length = 64 + tail.length := by rw [List.length_append, hb]
  have hone : (64 + tail.length) / 64 = 1 := by omega
  have hhead : blockAt (b.toList ++ tail) 0 = b := (blockOf_append hb tail).trans (blockOf_block b)
  rw [sha1, hlen, hone, chain_succ, chain_zero, hhead, List.drop_left' hb, sha1Fin, sha1FinWords_of_short ht]

theorem padBytes_of_message {m : List Byte} (h : m.length = 8) :
    padBytes m (64 + m.length) = m ++ [0x80] ++ List.replicate 47 0 ++ bytes64 576 := by
  rw [padBytes, h]
  rfl

theorem padBytes_of_digest (d : Words5) :
    padBytes (bytesOfWords d) (64 + (bytesOfWords d).length) =
      bytesOfWords d ++ [0x80] ++ List.replicate 35 0 ++ bytes64 672 := by
  rw [padBytes, bytesOfWords_length]
  rfl

theorem sha1_inner (k0 : Block) {m : List Byte} (h : m.length = 8) :
    sha1 ((xorBlock k0 ipad).toList ++ m) = bytesOfWords (hmac8Inner k0 m) := by
  rw [sha1_block_append _ (by omega), padBytes_of_message h, hmac8Inner]

theorem sha1_outer (k0 : Block) (m : List Byte) :
    sha1 ((xorBlock k0 opad).toList ++ bytesOfWords (hmac8Inner k0 m)) = bytesOfWords (hmac8 k0 m) := by
  rw [sha1_block_append _ (by rw [bytesOfWords_length]; decide), padBytes_of_digest, hmac8]

/-- Settles O39: the four blocks are those of `hmac8`, and each of the two nested hashes is two of its compressions. -/
theorem hmacOfEightBytesIsHmac : Obligations.HmacOfEightBytesIsHmac := by
  refine ⟨fun k0 m hm => ?_, fun k m hm => ?_⟩
  · refine ⟨sha1Iv, hmac8Inner k0 m, xorBlock k0 ipad, _, xorBlock k0 opad, _, rfl, xorBlock_toList k0 ipad, ?_,
      xorBlock_toList k0 opad, rfl, ?_, rfl⟩
    · exact blockOf_toList_of_length (by simp [hm])
    · exact blockOf_toList_of_length (by simp)
  · rw [hmac, sha1_inner _ hm, sha1_outer]

/-! ### `HMAC` and `GEN`, acceptance (R125, R150) -/

theorem acceptKeyed_of_keyready (p : EngineCmd) {c : CoreState} (hk : c.kst = .keyready) :
    acceptKeyed p c = startEngine p (clearCode (clearDigest c)) := if_neg (not_not_intro hk)

theorem acceptKeyed_of_not_keyready (p : EngineCmd) {c : CoreState} (hk : c.kst ≠ .keyready) :
    acceptKeyed p c = raise .seq c := if_pos hk

/-- Settles O40: on an idle core the two commands are `acceptKeyed` and differ in the opcode only. -/
theorem hmacAndGenAreAcceptedWithAReadyKey : Obligations.HmacAndGenAreAcceptedWithAReadyKey := by
  intro s i p hip
  have heffect : coreEffect i = acceptKeyed p := by
    obtain ⟨rfl, rfl⟩ | ⟨rfl, rfl⟩ := hip <;> rfl
  refine ⟨fun hi hk => ?_, fun hi hk => ?_, exec_of_busy i⟩
  · rw [exec_of_idle i hi, heffect, acceptKeyed_of_keyready p hk]
    rfl
  · rw [exec_of_idle i hi, heffect, acceptKeyed_of_not_keyready p hk]
    rfl

/-! ### `HMAC`, completion (R124, R126) -/

/-- The HMAC message is the 64-bit counter, most significant byte first. -/
theorem counterMessage_eq_bytes64 (c : CoreState) : counterMessage c = bytes64 (c.ctrHi ++ c.ctrLo) := by
  have hhi : (c.ctrHi ++ c.ctrLo).extractLsb' 32 32 = c.ctrHi := BitVec.extractLsb'_append_eq_left
  have hlo : (c.ctrHi ++ c.ctrLo).extractLsb' 0 32 = c.ctrLo := BitVec.extractLsb'_append_eq_right
  rw [bytes64, hhi, hlo, counterMessage]

/-- Settles O41: the engine's step is `HmacComplete` and `finishEngine`. -/
theorem hmacCompletionWritesTheDigest : Obligations.HmacCompletionWritesTheDigest := by
  intro s hn hb hp
  rw [step_of_engineNext hn hb hp, ← counterMessage_eq_bytes64]
  rfl

end Sys2Proof.Machine
end

section
/-! Truncation and the `TRUNC` command (43_trunc_mod.md R136 to R144): the four bytes extracted as a slice of the digest
number, `BIN`, `CODE` and the six digits of `BCD`, the acceptance and the completion. -/

namespace Sys2Proof.Machine

/-! ### Slices of slices -/

theorem extractLsb'_extractLsb'_of_add_le {n len : Nat} (x : BitVec n) (start : Nat) {inner k : Nat}
    (h : inner + k ≤ len) : (x.extractLsb' start len).extractLsb' inner k = x.extractLsb' (start + inner) k := by
  ext j hj
  simp only [BitVec.getElem_extractLsb', BitVec.getLsbD_extractLsb', show inner + j < len by omega, decide_true,
    Bool.true_and, Nat.add_assoc]

/-- A word that starts `k` bits into the upper of two adjacent words joins their shifts. -/
theorem extractLsb'_append_eq_shifts (hi lo : Word) {k : Nat} (hk : 1 ≤ k) (hk' : k ≤ 31) :
    (hi ++ lo).extractLsb' (32 - k) 32 = (hi <<< k) ||| (lo >>> (32 - k)) := by
  ext j hj
  simp only [BitVec.getElem_extractLsb', BitVec.getLsbD_append, BitVec.getElem_or, BitVec.getElem_shiftLeft,
    BitVec.getElem_ushiftRight]
  by_cases hlow : j < k
  · simp [hlow, show 32 - k + j < 32 by omega]
  · have hzero : lo.getLsbD (32 - k + j) = false := BitVec.getLsbD_of_ge _ _ (by omega)
    simp [hlow, hzero, show ¬ 32 - k + j < 32 by omega, show 32 - k + j - 32 = j - k by omega,
      BitVec.getLsbD_eq_getElem (show j - k < 32 by omega)]

/-! ### The digest as one number (R28) -/

/-- The number with its width written as the sum of the five widths, as the lemmas about `++` have it. -/
theorem digestNumber_extractLsb' (d : Words5) (start len : Nat) :
    (digestNumber d).extractLsb' start len = (d.w0 ++ d.w1 ++ d.w2 ++ d.w3 ++ d.w4).extractLsb' start len := rfl

/-- `DIGESTw`: the words behind it are skipped, and the slice of what is left is its last word, or all of it. -/
theorem digestNumber_word (d : Words5) (w : Fin 5) :
    (digestNumber d).extractLsb' (128 - 32 * w.val) 32 = Words5.get d w := by
  rw [digestNumber_extractLsb']
  fin_cases w <;> simp only [Nat.reduceMul, Nat.reduceSub]
  all_goals repeat rw [BitVec.extractLsb'_append_eq_of_le (by decide)]
  · exact BitVec.extractLsb'_eq_self
  all_goals exact BitVec.extractLsb'_append_eq_right

/-- `DIGESTw ‖ DIGEST(w+1)`. -/
theorem digestNumber_word_pair (d : Words5) (w : Fin 4) :
    (digestNumber d).extractLsb' (96 - 32 * w.val) 64 = Words5.get d w.castSucc ++ Words5.get d w.succ := by
  have hw := w.isLt
  rw [← digestNumber_word d w.castSucc, ← digestNumber_word d w.succ, Fin.val_castSucc, Fin.val_succ,
    show 96 - 32 * w.val = 128 - 32 * (w.val + 1) by omega]
  have hnext : 128 - 32 * w.val = 128 - 32 * (w.val + 1) + 32 := by omega
  exact (BitVec.extractLsb'_append_extractLsb'_eq_extractLsb' hnext).symm

theorem bytes32_getD (v : Word) {j : Nat} (h : j < 4) : (bytes32 v).getD j 0 = v.extractLsb' (24 - 8 * j) 8 := by
  interval_cases j <;> rfl

theorem digestBytes_getD_word (d : Words5) (w : Fin 5) {j : Nat} (h : j < 4) :
    (digestBytes d).getD (4 * w.val + j) 0 = (bytes32 (Words5.get d w)).getD j 0 := by
  fin_cases w <;> interval_cases j <;> rfl

/-- Byte `i` of the digest is eight bits of the number, counted from its upper end. -/
theorem digestBytes_getD (d : Words5) {i : Nat} (h : i < 20) :
    (digestBytes d).getD i 0 = (digestNumber d).extractLsb' (152 - 8 * i) 8 := by
  have hword := digestBytes_getD_word d ⟨i / 4, by omega⟩ (Nat.mod_lt i (by decide : 0 < 4))
  rw [bytes32_getD _ (Nat.mod_lt i (by decide)), ← digestNumber_word, extractLsb'_extractLsb'_of_add_le _ _ (by omega),
    Nat.div_add_mod] at hword
  rw [hword]
  congr 1
  dsimp only
  omega

/-! ### The four bytes extracted (R136 to R138) -/

theorem truncOffset_eq (d : Words5) : truncOffset d = d.w4.toNat % 16 := by
  have hbyte : (digestBytes d).getD 19 0 = d.w4.extractLsb' 0 8 := rfl
  have hmask : Config.offsetMask.toNat = 2 ^ 4 - 1 := rfl
  rw [truncOffset, hbyte, BitVec.toNat_and, hmask, Nat.and_two_pow_sub_one_eq_mod, BitVec.extractLsb'_toNat,
    Nat.shiftRight_zero, Nat.mod_mod_of_dvd _ (by decide)]

theorem be32At_congr {s t : List Byte} {i : Nat} (h : ∀ j < 4, s.getD (i + j) 0 = t.getD (i + j) 0) :
    be32At s i = be32At t i := by
  rw [be32At, be32At, h 1 (by decide), h 2 (by decide), h 3 (by decide)]
  exact congrArg (be32 · _ _ _) (h 0 (by decide))

/-- Four bytes of the digest that end before byte 19, read big-endian, are 32 bits of the number. -/
theorem be32At_digestBytes (d : Words5) {i : Nat} (h : i < 16) :
    be32At (digestBytes d) i = (digestNumber d).extractLsb' (128 - 8 * i) 32 := by
  rw [be32At, digestBytes_getD d (by omega), digestBytes_getD d (by omega), digestBytes_getD d (by omega),
    digestBytes_getD d (by omega), be32, BitVec.extractLsb'_append_extractLsb'_eq_extractLsb' (by omega),
    BitVec.extractLsb'_append_extractLsb'_eq_extractLsb' (by omega),
    BitVec.extractLsb'_append_extractLsb'_eq_extractLsb' (by omega)]
  congr 1
  omega

theorem truncWindow_eq_slice (d : Words5) :
    truncWindow d = (digestNumber d).extractLsb' (128 - 8 * truncOffset d) 32 :=
  be32At_digestBytes d (truncOffset_lt d)

theorem truncWindow_of_word (d : Words5) {w : Fin 5} (h : truncOffset d = 4 * w.val) :
    truncWindow d = Words5.get d w := by
  rw [truncWindow_eq_slice, h, ← digestNumber_word, ← Nat.mul_assoc]

theorem truncWindow_of_two_words (d : Words5) {w : Fin 4} {i : Nat} (hpos : 1 ≤ i) (hi : i ≤ 3)
    (h : truncOffset d = 4 * w.val + i) :
    truncWindow d = (Words5.get d w.castSucc <<< (8 * i)) ||| (Words5.get d w.succ >>> (32 - 8 * i)) := by
  have hw := w.isLt
  rw [truncWindow_eq_slice, h, ← extractLsb'_append_eq_shifts _ _ (by omega) (by omega), ← digestNumber_word_pair,
    extractLsb'_extractLsb'_of_add_le _ _ (by omega)]
  congr 1
  omega

/-- Settles O46: the four bytes are one slice of the digest number, and so are a register and two registers in a row. -/
theorem extractionIsASliceOfTheDigest : Obligations.ExtractionIsASliceOfTheDigest := fun d =>
  ⟨truncOffset_eq d, be32_toNat _ _ _ _, (truncWindow_eq_slice d).trans BitVec.setWidth_ushiftRight_eq_extractLsb.symm,
    fun _ => truncWindow_of_word d, fun _ _ => truncWindow_of_two_words d⟩

/-- Settles O47: the offset is a nibble, and the four bytes from it are among the first 19. -/
theorem extractionStaysInsideTheDigest : Obligations.ExtractionStaysInsideTheDigest := by
  intro d
  have hlt := truncOffset_lt d
  refine ⟨by omega, by omega, fun e hoff hbytes => ?_⟩
  rw [truncWindow, truncWindow, hoff]
  exact be32At_congr fun j hj => hbytes _ (by omega)

/-! ### `BIN` and `CODE` (R139, R140) -/

theorem truncBin_toNat (d : Words5) : (truncBin d).toNat = (truncWindow d).toNat % 2 ^ 31 := by
  have hmask : Config.signMask.toNat = 2 ^ 31 - 1 := rfl
  rw [truncBin, BitVec.toNat_and, hmask, Nat.and_two_pow_sub_one_eq_mod]

theorem truncCode_toNat (d : Words5) : (truncCode d).toNat = (truncBin d).toNat % 1000000 := BitVec.toNat_umod

/-- Settles O48: the quotient is `BIN div 10^6`, at most 2147 since `BIN` is below 2^31. -/
theorem codeIsBinModuloAMillion : Obligations.CodeIsBinModuloAMillion := by
  intro d
  have hbin := truncBin_lt d
  have hcode := truncCode_toNat d
  exact ⟨truncBin_toNat d, by omega, (truncBin d).toNat / 1000000, by omega, by omega⟩

/-! ### `BCD` (R141) -/

theorem decimalDigit_toNat (code : Word) (i : Nat) : (decimalDigit code i).toNat = code.toNat / 10 ^ i % 10 := by
  rw [decimalDigit, BitVec.toNat_ofNat]
  omega

theorem bcdWord_digit (code : Word) {i : Nat} (h : i < 6) :
    (bcdWord code).toNat / 16 ^ i % 16 = code.toNat / 10 ^ i % 10 := by
  rw [← decimalDigit_toNat, bcdWord_toNat]
  interval_cases i <;> omega

/-- A number below 10^6 is the sum of its six digits. -/
theorem six_digits_sum {n : Nat} (h : n < 1000000) :
    n = ((((n / 10 ^ 5 % 10 * 10 + n / 10 ^ 4 % 10) * 10 + n / 10 ^ 3 % 10) * 10 + n / 10 ^ 2 % 10) * 100
      + n / 10 ^ 1 % 10 * 10 + n / 10 ^ 0 % 10) := by
  simp only [Nat.pow_succ, Nat.pow_zero, ← Nat.div_div_eq_div_mul]
  omega

/-- Settles O49: nibble by nibble; a code below 10^6 has no digit beyond the sixth. -/
theorem bcdHoldsTheSixDigits : Obligations.BcdHoldsTheSixDigits := by
  intro code hcode
  have digit {i : Nat} (hi : i < 6) := bcdWord_digit code hi
  refine ⟨bcdWord_lt code, fun _ => digit, (six_digits_sum hcode).trans ?_⟩
  rw [← digit (i := 5) (by decide), ← digit (i := 4) (by decide), ← digit (i := 3) (by decide),
    ← digit (i := 2) (by decide), ← digit (i := 1) (by decide), ← digit (i := 0) (by decide),
    Nat.pow_one, Nat.pow_zero, Nat.div_one]

/-! ### The command (R143, R144) -/

/-- Settles O42: on an idle core the command is `Trunc`, whatever the key state. -/
theorem truncIsAcceptedInEveryKeyState : Obligations.TruncIsAcceptedInEveryKeyState :=
  fun _ => ⟨exec_of_idle .trunc, exec_of_busy .trunc⟩

theorem truncBin_toNat_eq_slice (d : Words5) :
    (truncBin d).toNat = (digestNumber d).toNat / 2 ^ (128 - 8 * truncOffset d) % 2 ^ 31 := by
  rw [truncBin_toNat, truncWindow_eq_slice, BitVec.extractLsb'_toNat, Nat.shiftRight_eq_div_pow,
    Nat.mod_mod_of_dvd _ (by decide)]

theorem bcdWord_toNat_eq_digits (code : Word) :
    (bcdWord code).toNat = 16 ^ 5 * (code.toNat / 10 ^ 5 % 10) + 16 ^ 4 * (code.toNat / 10 ^ 4 % 10)
      + 16 ^ 3 * (code.toNat / 10 ^ 3 % 10) + 16 ^ 2 * (code.toNat / 10 ^ 2 % 10)
      + 16 * (code.toNat / 10 % 10) + code.toNat % 10 := by
  simp only [bcdWord_toNat, decimalDigit_toNat]
  omega

/-- Settles O43: the engine's step is `TruncComplete` and `finishEngine`. -/
theorem truncCompletionWritesTheCode : Obligations.TruncCompletionWritesTheCode := by
  intro s hn hb hp
  have hlt := truncOffset_lt s.core.digest
  have hoff : (BitVec.ofNat 32 (truncOffset s.core.digest)).toNat = truncOffset s.core.digest := by
    rw [BitVec.toNat_ofNat]; omega
  refine ⟨BitVec.ofNat 32 (truncOffset s.core.digest), truncBin s.core.digest, truncCode s.core.digest,
    truncBcd s.core.digest, step_of_engineNext hn hb hp, hoff.trans (truncOffset_eq _), ?_, truncCode_toNat _,
    bcdWord_toNat_eq_digits _⟩
  rw [hoff]
  exact truncBin_toNat_eq_slice _

end Sys2Proof.Machine
end

section
/-! A run of a host script with the engine's turns anywhere among the host's (20_memory.md R60, R61; log entry 6): if
what holds between two host turns survives a turn of the engine, the script can be run one host turn after another. -/

namespace Sys2Proof.Machine

/-! ### What holds between two host turns -/

/-- What holds of the core and of the values read so far. -/
abbrev Assertion := CoreState → List Word → Prop

/-- An assertion about the core alone. -/
def onCore (C : CoreState → Prop) : Assertion := fun c _ => C c

/-- A busy core has a command to complete, and the assertion holds after its completion. -/
def EngineStable (P : Assertion) : Prop :=
  ∀ c reads, P c reads → c.busy = true → ∃ p, c.pend = some p ∧ P (engineStep p c) reads

theorem engineStable_of_idle {P : Assertion} (h : ∀ c reads, P c reads → c.busy = false) : EngineStable P :=
  fun c reads hP hb => nomatch (h c reads hP).symm.trans hb

theorem reaches_of_engine {P : Assertion} (hP : EngineStable P) {c : CoreState} {reads : List Word} (h : P c reads)
    (rest : List Turn) : ∃ c', P c' reads ∧ Reaches ⟨c, .engine :: rest, reads⟩ ⟨c', rest, reads⟩ := by
  cases hb : c.busy with
  | false => exact ⟨c, h, .of_step ((step_of_engine rfl).trans (engineTurn_of_idle hb))⟩
  | true =>
    obtain ⟨p, hp, hstep⟩ := hP c reads h hb
    exact ⟨engineStep p c, hstep, .of_step ((step_of_engine rfl).trans (engineTurn_of_pend hb hp))⟩

/-! ### Scripts -/

/-- From `P` the turn `x` leads to `Q`. -/
def RunsTurn (P : Assertion) (x : Turn) (Q : Assertion) : Prop :=
  ∀ c reads rest, P c reads → ∃ c' reads', Q c' reads' ∧ Reaches ⟨c, x :: rest, reads⟩ ⟨c', rest, reads'⟩

/-- From `P` every schedule that runs the script leads to `Q`. -/
def Runs (P : Assertion) (script : List Turn) (Q : Assertion) : Prop :=
  ∀ c reads ts rest, P c reads → hostTurns ts = script →
    ∃ c' reads', Q c' reads' ∧ Reaches ⟨c, ts ++ rest, reads⟩ ⟨c', rest, reads'⟩

/-- What `Runs` says of a machine that is given the schedule. -/
theorem Runs.reaches {P Q : Assertion} {script ts : List Turn} (h : Runs P script Q) {s : State}
    (hs : P s.core s.reads) (hts : hostTurns ts = script) :
    ∃ t, Reaches { s with turns := ts } t ∧ t.turns = [] ∧ Q t.core t.reads := by
  obtain ⟨c', reads', hQ, hr⟩ := h s.core s.reads ts [] hs hts
  rw [List.append_nil] at hr
  exact ⟨⟨c', [], reads'⟩, hr, rfl, hQ⟩

theorem Runs.mono {P Q R : Assertion} {script : List Turn} (h : Runs P script Q)
    (hQ : ∀ c reads, Q c reads → R c reads) : Runs P script R := by
  intro c reads ts rest hP hts
  obtain ⟨c', reads', hq, hr⟩ := h c reads ts rest hP hts
  exact ⟨c', reads', hQ c' reads' hq, hr⟩

/-- A script may be run from each core by itself. -/
theorem runs_of_each {C : CoreState → Prop} {script : List Turn} {Q : Assertion}
    (h : ∀ c, C c → Runs (onCore (· = c)) script Q) : Runs (onCore C) script Q :=
  fun c reads ts rest hC => h c hC c reads ts rest rfl

theorem hostTurns_cons_of_ne {x : Turn} (h : x ≠ .engine) (ts : List Turn) :
    hostTurns (x :: ts) = x :: hostTurns ts :=
  List.filter_cons_of_pos (decide_eq_true h)

theorem runs_nil {P : Assertion} (hP : EngineStable P) : Runs P [] P := by
  intro c reads ts rest h hts
  induction ts generalizing c with
  | nil => exact ⟨c, reads, h, .refl _⟩
  | cons x ts ih =>
    by_cases hx : x = .engine
    · subst hx
      obtain ⟨c₁, h₁, hr₁⟩ := reaches_of_engine hP h (ts ++ rest)
      obtain ⟨c₂, reads₂, h₂, hr₂⟩ := ih c₁ h₁ hts
      exact ⟨c₂, reads₂, h₂, hr₁.trans hr₂⟩
    · cases (hostTurns_cons_of_ne hx ts).symm.trans hts

theorem runs_cons {P Q R : Assertion} {x : Turn} {script : List Turn} (hP : EngineStable P) (hx : RunsTurn P x Q)
    (h : Runs Q script R) : Runs P (x :: script) R := by
  intro c reads ts rest hPc hts
  induction ts generalizing c with
  | nil => cases hts
  | cons y ts ih =>
    by_cases hy : y = .engine
    · subst hy
      obtain ⟨c₁, h₁, hr₁⟩ := reaches_of_engine hP hPc (ts ++ rest)
      obtain ⟨c₂, reads₂, h₂, hr₂⟩ := ih c₁ h₁ hts
      exact ⟨c₂, reads₂, h₂, hr₁.trans hr₂⟩
    · obtain ⟨rfl, hts'⟩ := List.cons.inj ((hostTurns_cons_of_ne hy ts).symm.trans hts)
      obtain ⟨c₁, reads₁, h₁, hr₁⟩ := hx c reads (ts ++ rest) hPc
      obtain ⟨c₂, reads₂, h₂, hr₂⟩ := h c₁ reads₁ ts rest h₁ hts'
      exact ⟨c₂, reads₂, h₂, hr₁.trans hr₂⟩

theorem Runs.append {P Q R : Assertion} {as bs : List Turn} (ha : Runs P as Q) (hb : Runs Q bs R) :
    Runs P (as ++ bs) R := by
  intro c reads ts rest hP hts
  obtain ⟨us, vs, rfl, hus, hvs⟩ := List.filter_eq_append_iff.mp hts
  obtain ⟨c₁, reads₁, h₁, hr₁⟩ := ha c reads us (vs ++ rest) hP hus
  obtain ⟨c₂, reads₂, h₂, hr₂⟩ := hb c₁ reads₁ vs rest h₁ hvs
  rw [← List.append_assoc] at hr₁
  exact ⟨c₂, reads₂, h₂, hr₁.trans hr₂⟩

/-! ### One host turn -/

theorem runsTurn_wr {P Q : Assertion} {r : Reg} {v : Word} (h : ∀ c reads, P c reads → Q (regWrite r v c) reads) :
    RunsTurn P (wrTurn r v) Q :=
  fun c reads _ hP => ⟨_, reads, h c reads hP, .of_step (step_of_wrTurn_regWrite rfl)⟩

theorem runsTurn_cmd {P Q : Assertion} {i : Instr}
    (h : ∀ c reads, P c reads → c.busy = false ∧ Q (coreEffect i c) reads) : RunsTurn P (cmdTurn i) Q := by
  intro c reads rest hP
  obtain ⟨hi, hQ⟩ := h c reads hP
  refine ⟨_, reads, hQ, .of_step ((step_of_wrTurn rfl).trans ?_)⟩
  rw [hostWrite_of_decode (decode_encode i)]
  exact exec_of_idle i hi

theorem runsTurn_rd {P Q : Assertion} {r : Reg} (h : ∀ c reads, P c reads → Q c (regRead r c :: reads)) :
    RunsTurn P (rdTurn r) Q := by
  intro c reads rest hP
  refine ⟨c, _, h c reads hP, .of_step ((step_of_read rfl (portRefusal_eq_none.mpr r.access_wf)).trans ?_)⟩
  rw [r.reg_access]
  rfl

/-- The `wait` ends with an idle core: the engine has stepped before it or among its reads (30_encoding.md R81). -/
theorem runsTurn_poll {C : CoreState → Prop} (hC : EngineStable (onCore C)) (n : Nat) :
    RunsTurn (onCore C) (.poll n) (onCore fun c => C c ∧ c.busy = false) := by
  intro c reads rest h
  cases hb : c.busy with
  | false => exact ⟨c, _, ⟨h, hb⟩, .of_step (step_of_poll_idle rfl hb)⟩
  | true =>
    obtain ⟨p, hp, hstep⟩ := hC c reads h hb
    have hbusy : Reaches ⟨c, .poll n :: rest, reads⟩ _ := ⟨n + 1, run_of_poll_busy rfl hb⟩
    exact ⟨engineStep p c, _, ⟨hstep, rfl⟩, hbusy.trans ⟨2, run_of_engine_poll rfl hb hp⟩⟩

theorem runs_wait {C : CoreState → Prop} (hC : EngineStable (onCore C)) (n : Nat) :
    Runs (onCore C) [.poll n] (onCore fun c => C c ∧ c.busy = false) :=
  runs_cons hC (runsTurn_poll hC n) (runs_nil (engineStable_of_idle fun _ _ h => h.2))

/-! ### An engine command and its completion -/

/-- The command `p`, accepted on the core `d`, is pending or complete. -/
def InProgress (p : EngineCmd) (d c : CoreState) : Prop :=
  c = startEngine p d ∨ c = engineStep p (startEngine p d)

theorem engineStable_inProgress (p : EngineCmd) (d : CoreState) : EngineStable (onCore (InProgress p d)) := by
  rintro c reads (rfl | rfl) hb
  · exact ⟨p, rfl, .inr rfl⟩
  · cases hb

theorem InProgress.eq_of_idle {p : EngineCmd} {d c : CoreState} (h : InProgress p d c) (hi : c.busy = false) :
    c = engineStep p (startEngine p d) := by
  obtain rfl | rfl := h
  · cases hi
  · rfl

/-- `cmd p; wait` on an idle core that accepts the command. -/
theorem runs_cmd_wait {p : EngineCmd} {c d : CoreState} (n : Nat) (hi : c.busy = false)
    (hacc : coreEffect p.instr c = startEngine p d) :
    Runs (onCore (· = c)) [cmdTurn p.instr, .poll n] (onCore (· = engineStep p (startEngine p d))) := by
  have hwait := runs_wait (engineStable_inProgress p d) n
  refine runs_cons (engineStable_of_idle ?_) (runsTurn_cmd ?_) (hwait.mono fun _ _ ⟨h, hidle⟩ => h.eq_of_idle hidle)
  · rintro _ _ rfl
    exact hi
  · rintro _ _ rfl
    exact ⟨hi, .inl hacc⟩

end Sys2Proof.Machine
end

section
/-! The `GEN` command (44_gen_and_host.md R150 to R152): its completion, and that it is `HMAC` followed by `TRUNC`. -/

namespace Sys2Proof.Machine

/-- Settles O44: the engine's step is `HmacComplete`, then `TruncComplete` of its digest, then `finishEngine`. -/
theorem genCompletionWritesDigestAndCode : Obligations.GenCompletionWritesDigestAndCode := by
  intro s d hn hb hp hd
  rw [step_of_engineNext hn hb hp, hd, ← counterMessage_eq_bytes64]
  rfl

/-- Setting `DONE` twice is setting it once; all else that `TRUNC` writes `GEN` has written (R151). -/
theorem engineStep_gen_eq_hmac_trunc (c : CoreState) :
    engineStep .gen (startEngine .gen (clearCode (clearDigest c))) =
      engineStep .trunc (startEngine .trunc (clearCode
        (engineStep .hmac (startEngine .hmac (clearCode (clearDigest c)))))) := by
  have hevt : c.evt ||| Event.mask .done = (c.evt ||| Event.mask .done) ||| Event.mask .done := by
    rw [BitVec.or_assoc, BitVec.or_self]
  exact congrArg (fun e => { engineStep .gen (startEngine .gen (clearCode (clearDigest c))) with evt := e }) hevt

/-- Settles O45: each script is run by `runs_cmd_wait`, command by command. -/
theorem genIsHmacThenTrunc : Obligations.GenIsHmacThenTrunc := by
  intro s p q r ts us hi hk hts hus
  have hgen := runs_cmd_wait (p := .gen) p hi (acceptKeyed_of_keyready .gen hk)
  have hhmac := runs_cmd_wait (p := .hmac) q hi (acceptKeyed_of_keyready .hmac hk)
  have htrunc := hhmac.append (runs_cmd_wait (p := .trunc) r rfl rfl)
  obtain ⟨t, hrt, htt, htc⟩ := hgen.reaches (s := s) rfl hts
  obtain ⟨u, hru, htu, huc⟩ := htrunc.reaches (s := s) rfl hus
  refine ⟨t, u, hrt, htt, hru, htu, ?_, ?_⟩
  · rw [htc]
    rfl
  · rw [htc, huc]
    exact engineStep_gen_eq_hmac_trunc s.core

end Sys2Proof.Machine
end

section
/-! What the host computes beside the accesses (44_gen_and_host.md R155, R158): the six characters of the code and the
time step. -/

namespace Sys2Proof.Machine

/-! ### The six characters (R158) -/

theorem renderCode_getD (bcd : Word) {j : Nat} (h : j < 6) :
    (renderCode bcd).getD j 0 = 0x30 + (bcd.extractLsb' (20 - 4 * j) 4).setWidth 8 := by
  simp [renderCode, List.getD_eq_getElem?_getD, List.getElem?_range h]

/-- A nibble of `BCD` is a digit, so its character does not overflow the byte. -/
theorem renderCode_toNat (bcd : Word) {j : Nat} (h : j < 6) :
    ((renderCode bcd).getD j 0).toNat = 0x30 + bcd.toNat / 16 ^ (5 - j) % 16 := by
  have hpow : 2 ^ (20 - 4 * j) = 16 ^ (5 - j) := by
    rw [show 20 - 4 * j = 4 * (5 - j) by omega, Nat.pow_mul]
  have hnibble : (bcd.extractLsb' (20 - 4 * j) 4).toNat = bcd.toNat / 16 ^ (5 - j) % 16 := by
    rw [BitVec.extractLsb'_toNat, Nat.shiftRight_eq_div_pow, hpow]
  rw [renderCode_getD bcd h, BitVec.toNat_add, BitVec.toNat_setWidth_of_le (by decide), hnibble]
  exact Nat.mod_eq_of_lt (by rw [show (0x30 : Byte).toNat = 48 from rfl]; omega)

/-- Settles O50: character `j` is the nibble of `BCD` that holds the decimal digit `5 - j`. -/
theorem renderedCodeIsSixDigits : Obligations.RenderedCodeIsSixDigits := by
  refine fun code _ => ⟨rfl, fun j hj => ?_⟩
  rw [renderCode_toNat _ hj, bcdWord_digit code (by omega)]

/-! ### The time step (R155) -/

theorem timeStep_of_lt {t : Nat} (h : t < 30 * 2 ^ 64) : timeStep t = some (BitVec.ofNat 64 (t / 30)) :=
  if_pos ⟨Int.natCast_nonneg t, by exact_mod_cast h⟩

theorem timeStep_of_outside {t : Int} (h : t < 0 ∨ 30 * 2 ^ 64 ≤ t) : timeStep t = none := by
  refine if_neg fun ⟨hpos, hlt⟩ => ?_
  have : t < 30 * 2 ^ 64 := hlt
  omega

theorem timeStep_toNat {t : Nat} (h : t < 30 * 2 ^ 64) : (BitVec.ofNat 64 (t / 30)).toNat = t / 30 := by
  rw [BitVec.toNat_ofNat]
  omega

/-- The two words of `ctr n` are the quotient and the remainder of the counter by `2^32` (30_encoding.md R81). -/
theorem ctrTurns_eq (n : BitVec 64) :
    ctrTurns n =
      [wrTurn .ctrHi (BitVec.ofNat 32 (n.toNat / 2 ^ 32)), wrTurn .ctrLo (BitVec.ofNat 32 (n.toNat % 2 ^ 32))] := by
  have hhi : n.extractLsb' 32 32 = BitVec.ofNat 32 (n.toNat / 2 ^ 32) := by
    rw [BitVec.extractLsb', Nat.shiftRight_eq_div_pow]
  have hlo : n.extractLsb' 0 32 = BitVec.ofNat 32 (n.toNat % 2 ^ 32) := BitVec.eq_of_toNat_eq (by simp)
  rw [ctrTurns, hhi, hlo]

/-- Settles O56: in range the counter is the quotient itself, which fits 64 bits; outside it there is no time step. -/
theorem timeStepIsTheFloorOfThirtySeconds : Obligations.TimeStepIsTheFloorOfThirtySeconds := by
  refine ⟨fun t ht => ?_, fun t ht => timeStep_of_outside (.inr (by exact_mod_cast ht)),
    fun t ht => timeStep_of_outside (.inl ht), fun text t p q => ⟨fun ht => ?_, fun hpos ht => ?_⟩⟩
  · have hn := timeStep_toNat ht
    exact ⟨_, timeStep_of_lt ht, by omega, by omega⟩
  · rw [HostLine.turns, timeStep_of_outside ht, Option.map_none]
  · lift t to Nat using hpos
    have ht : t < 30 * 2 ^ 64 := by exact_mod_cast ht
    refine ⟨BitVec.ofNat 64 (t / 30), by rw [timeStep_toNat ht]; rfl, ?_⟩
    rw [HostLine.turns, timeStep_of_lt ht, Option.map_some, ctrTurns_eq, List.append_assoc]
    rfl

end Sys2Proof.Machine
end

section
/-! One invocation of the core (44_gen_and_host.md R156, R157): the host's script run part by part, the key entry, the
code of a key that is not empty, the refusal of the empty key. -/

namespace Sys2Proof.Machine

/-! ### The key entry -/

/-- The bytes `k` have been entered since `KEYSTART`, and nothing has raised an event. -/
structure Entering (k : List Byte) (c : CoreState) : Prop where
  idle      : c.busy = false
  kst       : c.kst = .keyload
  key       : KeyEntered k c
  codevalid : c.codevalid = false
  evt       : c.evt = 0

theorem entering_keyStart {c : CoreState} (hi : c.busy = false) (he : c.evt = 0) : Entering [] (keyStartCommand c) :=
  ⟨hi, rfl, keyEntered_nil rfl rfl rfl, rfl, he⟩

theorem Entering.keyIn {k : List Byte} {c : CoreState} (h : Entering k c) (hlen : k.length < 2 ^ 32 - 1) (b : Byte) :
    Entering (k ++ [b]) (keyIn b c) := by
  have hroom : c.klen ≠ Config.klenLimit := ne_klenLimit_of_lt (h.key.klen ▸ hlen)
  have hkey := keyEntered_concat h.key hroom b
  obtain ⟨buf, kh, hframe⟩ := keyStore_keyFlush_frame b c
  rw [hframe] at hkey
  rw [keyIn_of_room b h.kst hroom, hframe]
  exact ⟨h.idle, h.kst, hkey, h.codevalid, h.evt⟩

theorem engineStable_inv : EngineStable (onCore Inv) := by
  intro c _ h hb
  obtain ⟨p, hp⟩ := Option.ne_none_iff_exists'.mp (h.item1a.mp hb)
  exact ⟨p, hp, inv_engineStep hp h⟩

theorem engineStable_entering (k : List Byte) : EngineStable (onCore (Entering k)) :=
  engineStable_of_idle fun _ _ h => h.idle

/-- Acknowledging all six events clears an `EVT` that has no other bits (R45 item 9). -/
theorem evtCleared_all {evt : Word} (h : evt.toNat < 2 ^ 6) : evtCleared evt 0x3F = 0 := by
  refine BitVec.eq_of_getLsbD_eq fun k _ => (evtCleared_getLsbD evt _ k).trans (Eq.trans ?_ BitVec.getLsbD_zero.symm)
  by_cases hlow : k < 6
  · have hset : (0x3F : Word).getLsbD k = true := by interval_cases k <;> rfl
    rw [decide_eq_true hlow, hset, Bool.true_and, Bool.not_true, Bool.and_false]
  · have hclear : evt.getLsbD k = false :=
      Nat.testBit_lt_two_pow (h.trans_le (Nat.pow_le_pow_right (by decide) (Nat.not_lt.mp hlow)))
    rw [hclear, Bool.false_and]

theorem regWrite_keyin_of_idle (b : Byte) {c : CoreState} (hi : c.busy = false) :
    regWrite .keyin (b.setWidth 32) c = keyIn b c := by
  have hbyte : (b.setWidth 32).extractLsb' 0 8 = b := BitVec.eq_of_toNat_eq (by simpa using b.isLt)
  rw [regWrite, guarded_of_idle hi, hbyte]

/-- One `KEYIN` write for each byte (30_encoding.md R81). -/
theorem runs_keyinTurns (k l : List Byte) (hlen : k.length + l.length < 2 ^ 32) :
    Runs (onCore (Entering k)) (keyinTurns l) (onCore (Entering (k ++ l))) := by
  induction l generalizing k with
  | nil =>
    rw [List.append_nil]
    exact runs_nil (engineStable_entering k)
  | cons b l ih =>
    rw [List.length_cons] at hlen
    have hrest := ih (k ++ [b]) (by rw [List.length_append, List.length_singleton]; omega)
    rw [List.append_assoc, List.singleton_append] at hrest
    refine runs_cons (engineStable_entering k) (runsTurn_wr fun c _ h => ?_) hrest
    rw [regWrite_keyin_of_idle b h.idle]
    exact h.keyIn (by omega) b

/-- The script of R156 up to the last key byte. -/
theorem runs_keyEntry (p : Nat) {k : List Byte} (hlen : k.length < 2 ^ 32) :
    Runs (onCore Inv) ([.poll p, wrTurn .evt 0x3F, cmdTurn .keystart] ++ keyinTurns k) (onCore (Entering k)) := by
  refine Runs.append ?_ (runs_keyinTurns [] k (by rwa [List.length_nil, Nat.zero_add]))
  have hacked : RunsTurn (onCore fun c => Inv c ∧ c.busy = false) (wrTurn .evt 0x3F)
      (onCore fun c => c.busy = false ∧ c.evt = 0) :=
    runsTurn_wr fun c _ ⟨h, hi⟩ => ⟨hi, evtCleared_all h.item9.1⟩
  refine runs_cons engineStable_inv (runsTurn_poll engineStable_inv p) ?_
  refine runs_cons (engineStable_of_idle fun _ _ h => h.2) hacked ?_
  refine runs_cons (engineStable_of_idle fun _ _ h => h.1) (runsTurn_cmd fun c _ ⟨hi, he⟩ => ?_)
    (runs_nil (engineStable_entering []))
  exact ⟨hi, entering_keyStart hi he⟩

/-! ### The code of a key -/

/-- `KEYEND` is accepted on a core with the key `k` and pending or complete. -/
def KeyEnding (k : List Byte) (c : CoreState) : Prop := ∃ d, Entering k d ∧ InProgress .keyend d c

theorem engineStable_keyEnding (k : List Byte) : EngineStable (onCore (KeyEnding k)) := by
  rintro c reads ⟨d, hd, hc⟩ hb
  obtain ⟨p, hp, hstep⟩ := engineStable_inProgress .keyend d c reads hc hb
  exact ⟨p, hp, d, hd, hstep⟩

/-- The read of `EVT` finds `DONE` or nothing: the engine completes `KEYEND` before it or after it. -/
theorem KeyEnding.evt {k : List Byte} {c : CoreState} (h : KeyEnding k c) : c.evt = 0 ∨ c.evt = 0x01 := by
  obtain ⟨d, hd, rfl | rfl⟩ := h
  · exact .inl hd.evt
  · rw [engineStep_evt, startEngine_evt, hd.evt]
    exact .inr rfl

theorem klen_ne_zero {k : List Byte} {c : CoreState} (h : KeyEntered k c) (hpos : 1 ≤ k.length) : c.klen ≠ 0 := by
  intro h0
  rw [← h.klen, h0] at hpos
  exact absurd hpos (by decide)

theorem runs_invocationStart (p : Nat) {k : List Byte} (hpos : 1 ≤ k.length) (hlen : k.length < 2 ^ 32) :
    Runs (onCore Inv) (invocationStart p k)
      (fun c reads => KeyEnding k c ∧ ∃ e, reads.head? = some e ∧ (e = 0 ∨ e = 0x01)) := by
  have hkeyend : RunsTurn (onCore (Entering k)) (cmdTurn .keyend) (onCore (KeyEnding k)) :=
    runsTurn_cmd fun c _ h => ⟨h.idle, c, h, .inl (keyEndCommand_of_key h.kst (klen_ne_zero h.key hpos))⟩
  refine (runs_keyEntry p hlen).append (runs_cons (engineStable_entering k) hkeyend
    (runs_cons (engineStable_keyEnding k) (runsTurn_rd fun c _ h => ⟨h, c.evt, rfl, h.evt⟩) (runs_nil ?_)))
  rintro c reads ⟨h, he⟩ hb
  obtain ⟨p, hp, hstep⟩ := engineStable_keyEnding k c reads h hb
  exact ⟨p, hp, hstep, he⟩

/-- The key `k` is ready, and no event but `DONE` is set. -/
structure Armed (k : List Byte) (c : CoreState) : Prop where
  idle : c.busy = false
  kst  : c.kst = .keyready
  key  : KeyReady k c
  evt  : c.evt = 0x01

theorem Entering.armed {k : List Byte} {c : CoreState} (h : Entering k c) (hpos : 1 ≤ k.length) :
    Armed k (engineStep .keyend (startEngine .keyend c)) where
  idle := rfl
  kst := rfl
  key := keyReady_finishEngine (keyReady_keyEndComplete ⟨h.key.klen, h.key.kh, h.key.kbuf⟩ (h.key.klen ▸ hpos))
  evt := by
    rw [engineStep_evt, startEngine_evt, h.evt]
    rfl

theorem Armed.withCounter {k : List Byte} {c : CoreState} (h : Armed k c) (hi lo : Word) :
    Armed k { c with ctrHi := hi, ctrLo := lo } :=
  ⟨h.idle, h.kst, ⟨h.key.klen, h.key.nonempty, h.key.kh, h.key.kbuf⟩, h.evt⟩

/-- The core holds the HMAC of the counter under `k` and its truncation, and is free. -/
structure Coded (k : List Byte) (counter : BitVec 64) (c : CoreState) : Prop where
  idle      : c.busy = false
  digest    : digestBytes c.digest = hmac k (bytes64 counter)
  result    : ResultOfDigest c
  codevalid : c.codevalid = true
  evt       : c.evt = 0x01

theorem Armed.coded {k : List Byte} {c : CoreState} (h : Armed k c) :
    Coded k (c.ctrHi ++ c.ctrLo) (engineStep .gen (startEngine .gen (clearCode (clearDigest c)))) where
  idle := rfl
  digest := by
    have hmac8_eq : hmac k (bytes64 (c.ctrHi ++ c.ctrLo)) = digestBytes (hmac8 c.kbuf (counterMessage c)) := by
      rw [← hmacOfEightBytesIsHmac.2 k _ (bytes64_length _), h.key.kbuf, counterMessage_eq_bytes64]
      rfl
    rw [hmac8_eq]
    rfl
  result := ⟨rfl, rfl, rfl, rfl⟩
  codevalid := rfl
  evt := by
    rw [engineStep_evt, startEngine_evt, clearCode_evt, clearDigest_evt, h.evt]
    rfl

theorem runs_ctrTurns (k : List Byte) (counter : BitVec 64) :
    Runs (onCore (Armed k)) (ctrTurns counter) (onCore fun c => Armed k c ∧ c.ctrHi ++ c.ctrLo = counter) := by
  have hjoin : counter.extractLsb' 32 32 ++ counter.extractLsb' 0 32 = counter :=
    (BitVec.extractLsb'_append_extractLsb'_eq_extractLsb' rfl).trans BitVec.extractLsb'_eq_self
  have hhi : RunsTurn (onCore (Armed k)) (wrTurn .ctrHi (counter.extractLsb' 32 32))
      (onCore fun c => Armed k c ∧ c.ctrHi = counter.extractLsb' 32 32) := runsTurn_wr fun c _ h => by
    rw [regWrite_ctrHi_of_idle _ h.idle]
    exact ⟨h.withCounter _ c.ctrLo, rfl⟩
  refine runs_cons (engineStable_of_idle fun _ _ h => h.idle) hhi ?_
  refine runs_cons (engineStable_of_idle fun _ _ h => h.1.idle) (runsTurn_wr fun c _ ⟨h, hc⟩ => ?_)
    (runs_nil (engineStable_of_idle fun _ _ h => h.1.idle))
  rw [regWrite_ctrLo_of_idle _ h.idle]
  exact ⟨h.withCounter c.ctrHi _, (congrArg (· ++ counter.extractLsb' 0 32) hc).trans hjoin⟩

theorem runs_gen_wait (k : List Byte) (counter : BitVec 64) (r : Nat) :
    Runs (onCore fun c => Armed k c ∧ c.ctrHi ++ c.ctrLo = counter) [cmdTurn .gen, .poll r]
      (onCore (Coded k counter)) := by
  refine runs_of_each fun c ⟨h, hc⟩ => ?_
  refine (runs_cmd_wait (p := .gen) r h.idle (acceptKeyed_of_keyready .gen h.kst)).mono fun c' _ hc' => ?_
  rw [onCore, hc', ← hc]
  exact h.coded

/-- The last two reads, of a core that stays as it is. -/
theorem runs_resultReads (k : List Byte) (counter : BitVec 64) :
    Runs (onCore (Coded k counter)) [rdTurn .status, rdTurn .bcd]
      (fun c reads => Coded k counter c ∧ reads.take 2 = [c.bcd, statusWord c]) := by
  have hstatus : RunsTurn (onCore (Coded k counter)) (rdTurn .status)
      (fun c reads => Coded k counter c ∧ reads.take 1 = [statusWord c]) := runsTurn_rd fun _ _ h => ⟨h, rfl⟩
  refine runs_cons (engineStable_of_idle fun _ _ h => h.idle) hstatus ?_
  refine runs_cons (engineStable_of_idle fun _ _ h => h.1.idle) (runsTurn_rd fun c _ ⟨h, hread⟩ => ⟨h, ?_⟩)
    (runs_nil (engineStable_of_idle fun _ _ h => h.1.idle))
  rw [List.take_succ_cons, hread, regRead]

/-- The rest of the script, from a `KEYEND` that is pending or complete. -/
theorem runs_invocationRest {k : List Byte} (hpos : 1 ≤ k.length) {e : Word} (he : e.getLsbD 1 = false)
    (counter : BitVec 64) (q r : Nat) :
    Runs (onCore (KeyEnding k)) (invocationRest e counter q r)
      (fun c reads => Coded k counter c ∧ reads.take 2 = [c.bcd, statusWord c]) := by
  have hwait : Runs (onCore (KeyEnding k)) [.poll q] (onCore (Armed k)) := by
    refine (runs_wait (engineStable_keyEnding k) q).mono fun c _ ⟨⟨d, hd, hc⟩, hidle⟩ => ?_
    rw [onCore, hc.eq_of_idle hidle]
    exact hd.armed hpos
  rw [invocationRest, he]
  have harm := hwait.append (runs_ctrTurns k counter)
  exact harm.append ((runs_gen_wait k counter r).append (runs_resultReads k counter))

theorem statusWord_getLsbD_four (c : CoreState) : (statusWord c).getLsbD 4 = c.codevalid := by
  simp only [statusWord, BitVec.getLsbD_setWidth, BitVec.getLsbD_append]
  simp

/-- What the host returns for a core that holds a code. -/
theorem Coded.invocationResult_eq {k : List Byte} {counter : BitVec 64} {c : CoreState} (h : Coded k counter c)
    {e : Word} (he : e.getLsbD 1 = false) :
    invocationResult e (statusWord c) c.bcd = .code (renderCode (truncBcd c.digest)) := by
  rw [invocationResult, he, statusWord_getLsbD_four, h.codevalid, h.result.bcd]
  rfl

/-- Settles O57: the two parts of the script are run by `runs_invocationStart` and `runs_invocationRest`. -/
theorem invocationComputesTheCode : Obligations.InvocationComputesTheCode := by
  intro s k counter p ts hinv hpos hlen hts
  obtain ⟨u, hru, htu, hkey, e, hread, he⟩ := (runs_invocationStart p hpos hlen).reaches hinv hts
  refine ⟨u, e, hru, htu, hread, he, fun q r us hus => ?_⟩
  have hvalid : e.getLsbD 1 = false := by obtain rfl | rfl := he <;> rfl
  obtain ⟨t, hrt, htt, hcoded, hreads⟩ := (runs_invocationRest hpos hvalid counter q r).reaches hkey hus
  obtain ⟨hoffset, hbin, hcode, hbcd⟩ := hcoded.result
  exact ⟨t, statusWord t.core, t.core.bcd, t.core.digest, hrt, htt, hreads, hcoded.idle, rfl, hcoded.digest, hoffset,
    hbin, hcode, hbcd, hbcd, hcoded.evt, by rw [hcoded.evt]; decide, hcoded.invocationResult_eq hvalid⟩

/-! ### The empty key -/

/-- No key, no code and no engine command, and the events `evt`. -/
structure Refused (evt : Word) (c : CoreState) : Prop where
  idle      : c.busy = false
  kst       : c.kst = .nokey
  key       : NoKey c
  codevalid : c.codevalid = false
  evt       : c.evt = evt

theorem engineStable_refused (evt : Word) : EngineStable (onCore (Refused evt)) :=
  engineStable_of_idle fun _ _ h => h.idle

theorem Entering.refused {c : CoreState} (h : Entering [] c) : Refused 0x02 (keyEndCommand c) := by
  rw [keyEndCommand_of_empty h.kst (BitVec.eq_of_toNat_eq h.key.klen)]
  refine ⟨h.idle, rfl, ⟨rfl, rfl, rfl⟩, h.codevalid, ?_⟩
  rw [raise_evt, zeroiseKey_evt, h.evt]
  rfl

theorem runs_invocationStart_empty (p : Nat) :
    Runs (onCore Inv) (invocationStart p []) (fun c reads => Refused 0x02 c ∧ reads.head? = some 0x02) := by
  have hkeyend : RunsTurn (onCore (Entering [])) (cmdTurn .keyend) (onCore (Refused 0x02)) :=
    runsTurn_cmd fun c _ h => ⟨h.idle, h.refused⟩
  exact (runs_keyEntry p (by decide)).append (runs_cons (engineStable_entering []) hkeyend
    (runs_cons (engineStable_refused 0x02) (runsTurn_rd fun c _ h => ⟨h, congrArg some h.evt⟩)
      (runs_nil (engineStable_of_idle fun _ _ h => h.1.idle))))

/-- The rest of the script acknowledges `INVKEY`. -/
theorem runs_invocationRest_empty (counter : BitVec 64) (q r : Nat) :
    Runs (onCore (Refused 0x02)) (invocationRest 0x02 counter q r) (onCore (Refused 0)) := by
  refine runs_cons (engineStable_refused 0x02) (runsTurn_wr fun c _ h => ?_) (runs_nil (engineStable_refused 0))
  refine ⟨h.idle, h.kst, ⟨h.key.klen, h.key.kh, h.key.kbuf⟩, h.codevalid, ?_⟩
  exact (congrArg (evtCleared · 0x02) h.evt).trans (by decide)

/-- Settles O58: `KEYEND` raises `INVKEY` and drops the key, and the host acknowledges it. -/
theorem invocationRefusesTheEmptyKey : Obligations.InvocationRefusesTheEmptyKey := by
  intro s counter p ts hinv hts
  obtain ⟨u, hru, htu, hcore, hread⟩ := (runs_invocationStart_empty p).reaches hinv hts
  refine ⟨u, 0x02, hru, htu, hread, fun _ _ => rfl, fun q r us hus => ?_⟩
  obtain ⟨t, hrt, htt, h⟩ := (runs_invocationRest_empty counter q r).reaches hcore hus
  exact ⟨t, hrt, htt, h.idle, h.kst, h.codevalid, h.evt, h.key⟩

end Sys2Proof.Machine
end

section
/-! The events (60_exceptions.md R170 to R178): what a host write does to `EVT` and to the rest of the core, said once
for every register and word, and from it the rules about `SEQ`, `BUSYWR`, `DONE`, precision and one event a write. -/

namespace Sys2Proof.Machine

/-! ### Raised events -/

/-- Every event of the core `d` was set in the core `c` already. -/
def RaisesNone (c d : CoreState) : Prop := ∀ e, eventSet e d = true → eventSet e c = true

theorem raisesNone_of_evt_eq {c d : CoreState} (h : d.evt = c.evt) : RaisesNone c d :=
  fun e he => by rwa [eventSet, h] at he

theorem raisesNone_dismiss (v : Word) (c : CoreState) : RaisesNone c (dismiss v c) :=
  fun e he => (Bool.and_eq_true_iff.mp ((eventSet_dismiss e v c).symm.trans he)).1

theorem raisesNone_reset (c : CoreState) : RaisesNone c CoreState.reset := by
  intro e he
  cases e <;> cases he

theorem RaisesNone.not_raisedBy {s t : State} (h : RaisesNone s.core t.core) (e : Event) : ¬ raisedBy e s t :=
  fun ⟨hs, ht⟩ => nomatch hs.symm.trans (h e ht)

/-- Where `EVT` gained the bit of `e` only, an event that was raised is `e`. -/
theorem eq_of_evt_or_mask {c d : CoreState} {e f : Event} (h : d.evt = c.evt ||| e.mask)
    (hc : eventSet f c = false) (hd : eventSet f d = true) : f = e := by
  have hset : eventSet f d = eventSet f (raise e c) := by rw [eventSet, h, eventSet, raise_evt]
  rw [hset, eventSet_raise, hc, Bool.false_or] at hd
  exact of_decide_eq_true hd

/-! ### The instructions (R171 to R175) -/

theorem InstrEffect.of_not_admitted {i : Instr} {c d : CoreState} (w : InstrEffect c i d)
    (h : admitted i c.kst = false) : d = raise .seq c := by
  cases w with
  | notAdmitted => rfl
  | keyOverflow _ _ hk | keyByte _ _ hk | emptyKey hk | keyend hk | hmac hk | gen hk => rw [hk] at h; cases h
  | nop | clr | keystart | trunc => cases h

/-- An admitted instruction raises no event, or it drops the key entry with `INVKEY` or `KEYOVF`. -/
theorem InstrEffect.of_admitted {i : Instr} {c d : CoreState} (w : InstrEffect c i d) (h : admitted i c.kst = true) :
    RaisesNone c d ∨
      ∃ e, (e = .invkey ∨ e = .keyovf) ∧ c.kst = .keyload ∧ d = raise e (zeroiseKey c) := by
  cases w with
  | notAdmitted _ hn => exact nomatch hn.symm.trans h
  | keyOverflow _ _ hk => exact .inr ⟨.keyovf, .inr rfl, hk, rfl⟩
  | emptyKey hk => exact .inr ⟨.invkey, .inl rfl, hk, rfl⟩
  | clr => exact .inl (raisesNone_reset c)
  | keyByte _ b =>
    obtain ⟨buf, kh, e⟩ := keyStore_keyFlush_frame b c
    rw [e]
    exact .inl (raisesNone_of_evt_eq rfl)
  | nop | keystart | keyend | hmac | gen | trunc => exact .inl (raisesNone_of_evt_eq rfl)

/-- Settles O19: an instruction that is not admitted is `raise .seq`, and the only events of an admitted one are
those of a dropped key entry. -/
theorem seqFollowsTheAdmissionTable : Obligations.SeqFollowsTheAdmissionTable := by
  intro s i hi
  have heffect := instrEffect_coreEffect i s.core
  refine ⟨fun hn => ?_, fun ha => ⟨_, exec_of_idle i hi, ?_⟩⟩
  · rw [exec_of_idle i hi, heffect.of_not_admitted hn]
    rfl
  · obtain hnone | ⟨e, he, -, hd⟩ := heffect.of_admitted ha
    · exact RaisesNone.not_raisedBy hnone .seq
    · rintro ⟨hs, ht⟩
      obtain rfl := eq_of_evt_or_mask (c := s.core) (congrArg CoreState.evt hd) hs ht
      obtain he | he := he <;> cases he

/-! ### The host's write -/

/-- `EventEffect c d`: from the core `c` to the core `d` no event is raised, or one event other than `DONE` and nothing
else changes (R178), or one event with which the key entry is dropped (R171, R175). -/
inductive EventEffect (c : CoreState) : CoreState → Prop where
  | none {d : CoreState} (h : RaisesNone c d) : EventEffect c d
  | precise (e : Event) (he : e ≠ .done) : EventEffect c (raise e c)
  | keyDropped (e : Event) (he : e = .invkey ∨ e = .keyovf) (hk : c.kst = .keyload) :
      EventEffect c (raise e (zeroiseKey c))

theorem eventEffect_coreEffect (i : Instr) (c : CoreState) : EventEffect c (coreEffect i c) := by
  have heffect := instrEffect_coreEffect i c
  cases ha : admitted i c.kst with
  | false =>
    rw [heffect.of_not_admitted ha]
    exact .precise .seq (by decide)
  | true =>
    obtain hnone | ⟨e, he, hk, hd⟩ := heffect.of_admitted ha
    · exact .none hnone
    · rw [hd]
      exact .keyDropped e he hk

theorem eventEffect_execCmd (w : Word) (c : CoreState) : EventEffect c (execCmd w c) := by
  obtain ⟨i, hd⟩ | hd := decodeCommand_cases w
  · rw [execCmd_of_decodeCommand_ok hd]
    exact eventEffect_coreEffect i c
  · rw [execCmd_of_illegal hd]
    exact .precise .illcmd (by decide)

/-- A write to a register that is not guarded raises no event, busy or not. -/
theorem raisesNone_regWrite {r : Reg} (hr : guardedReg r = false) (v : Word) (c : CoreState) :
    RaisesNone c (regWrite r v c) := by
  cases r with
  | evt => exact raisesNone_dismiss v c
  | cmd | keyin | ctrHi | ctrLo | digest => cases hr
  | _ => exact raisesNone_of_evt_eq rfl

theorem eventEffect_guarded {f : CoreState → CoreState} {c : CoreState} (h : EventEffect c (f c)) :
    EventEffect c (guarded f c) := by
  obtain ⟨-, e⟩ | ⟨-, e⟩ := guarded_cases f c <;> rw [e]
  · exact .precise .busywr (by decide)
  · exact h

theorem eventEffect_regWrite (r : Reg) (v : Word) (c : CoreState) : EventEffect c (regWrite r v c) := by
  cases r with
  | cmd => exact eventEffect_guarded (eventEffect_execCmd v c)
  | keyin => exact eventEffect_guarded (eventEffect_coreEffect (.keyin 0 (v.extractLsb' 0 8)) c)
  | ctrHi | ctrLo | digest => exact eventEffect_guarded (.none (raisesNone_of_evt_eq rfl))
  | _ => exact .none (raisesNone_regWrite rfl v c)

/-- A write that raises the event `e` raises it and no other, alone or with the key entry dropped. -/
theorem EventEffect.of_raised {c d : CoreState} (h : EventEffect c d) {e : Event} (hc : eventSet e c = false)
    (hd : eventSet e d = true) :
    (e ≠ .done ∧ d = raise e c) ∨
      ((e = .invkey ∨ e = .keyovf) ∧ c.kst = .keyload ∧ d = raise e (zeroiseKey c)) := by
  cases h with
  | none h => exact nomatch hc.symm.trans (h e hd)
  | precise e' he =>
    obtain rfl := eq_of_evt_or_mask (c := c) rfl hc hd
    exact .inl ⟨he, rfl⟩
  | keyDropped e' he hk =>
    obtain rfl := eq_of_evt_or_mask (c := c) rfl hc hd
    exact .inr ⟨he, hk, rfl⟩

theorem EventEffect.event_unique {c d : CoreState} (h : EventEffect c d) {e f : Event} (hc : eventSet e c = false)
    (hd : eventSet e d = true) (hc' : eventSet f c = false) (hd' : eventSet f d = true) : f = e := by
  obtain ⟨-, rfl⟩ | ⟨-, -, rfl⟩ := h.of_raised hc hd <;> exact eq_of_evt_or_mask (c := c) rfl hc' hd'

theorem EventEffect.done_not_raised {c d : CoreState} (h : EventEffect c d) (hc : eventSet .done c = false) :
    ¬ eventSet .done d = true := by
  intro hd
  obtain ⟨hne, -⟩ | ⟨he | he, -⟩ := h.of_raised hc hd
  · exact hne rfl
  · cases he
  · cases he

/-- A step on a host write that answers a next state was carried by the port and is `RegWrite` (20_memory.md R56). -/
theorem eq_of_step_write {s t : State} {a : Access} {v : Word} {rest : List Turn} (hs : s.turns = .write a v :: rest)
    (h : step s = .next t) : t = { s with turns := rest, core := regWrite a.reg v s.core } := by
  cases ha : portRefusal a with
  | some r => rw [step_of_refused_write hs ha] at h; cases h
  | none =>
    rw [step_of_write hs ha, hostWrite_eq_regWrite] at h
    cases h
    rfl

/-- Settles O20: the two ways in which `RegWrite` raises an event. -/
theorem eventsArePrecise : Obligations.EventsArePrecise := by
  rintro s t a v rest e hs h ⟨hc, hd⟩
  obtain rfl := eq_of_step_write hs h
  obtain ⟨-, hcore⟩ | ⟨he, hk, hcore⟩ := (eventEffect_regWrite a.reg v s.core).of_raised hc hd
  · exact ⟨rfl, rfl, .inl hcore⟩
  · exact ⟨rfl, rfl, .inr ⟨he, hk, hcore⟩⟩

/-- Settles O21: `RegWrite` raises one event at most, and not `DONE`. -/
theorem oneWriteRaisesAtMostOneEvent : Obligations.OneWriteRaisesAtMostOneEvent := by
  intro s t a v rest hs h
  obtain rfl := eq_of_step_write hs h
  have heffect := eventEffect_regWrite a.reg v s.core
  refine ⟨fun e f ⟨hc, hd⟩ ⟨hc', hd'⟩ => heffect.event_unique hc' hd' hc hd, fun ⟨hc, hd⟩ => ?_⟩
  exact heffect.done_not_raised hc hd

/-! ### `DONE` (R170) -/

theorem eventSet_done_engineStep (p : EngineCmd) (c : CoreState) : eventSet .done (engineStep p c) = true := by
  rw [engineStep, finishEngine, eventSet_raise, decide_eq_true rfl, Bool.or_true]

/-- The engine of a busy core, given the turn, completes a command if the step answers a next state. -/
theorem engineStep_of_engineNext {s t : State} (hn : engineNext s) (hb : s.core.busy = true) (h : step s = .next t) :
    ∃ p, t.core = engineStep p s.core := by
  obtain ⟨rest, hs⟩ : ∃ rest, step s = engineTurn { s with turns := rest } := by
    obtain hs | ⟨rest, hs⟩ := hn
    · exact ⟨[], step_of_engine_or_nil (.inr ⟨hs, rfl⟩)⟩
    · exact ⟨rest, step_of_engine hs⟩
  obtain ⟨hi, -⟩ | ⟨p, -, -, e⟩ | ⟨-, -, e⟩ := engineTurn_cases { s with turns := rest }
  · exact nomatch hi.symm.trans hb
  · rw [hs, e] at h
    cases h
    exact ⟨p, rfl⟩
  · rw [hs, e] at h
    cases h

/-- Settles O22: of the four things a step can do only the engine's step raises `DONE`. -/
theorem doneIsSetExactlyByTheEngine : Obligations.DoneIsSetExactlyByTheEngine := by
  intro s t h
  refine ⟨fun hn hb => ?_, fun hraised => ?_⟩
  · obtain ⟨p, e⟩ := engineStep_of_engineNext hn hb h
    rw [e]
    exact eventSet_done_engineStep p s.core
  · obtain e | ⟨p, hn, hb, -, e⟩ | ⟨-, e⟩ | ⟨a, v, rest, hs, -⟩ := step_core_cases h
    · exact ((raisesNone_of_evt_eq (congrArg CoreState.evt e)).not_raisedBy .done hraised).elim
    · exact ⟨hn, hb, congrArg CoreState.busy e⟩
    · exact (RaisesNone.not_raisedBy (e ▸ raisesNone_reset s.core) .done hraised).elim
    · exact ((oneWriteRaisesAtMostOneEvent s t a v rest hs h).2 hraised).elim

/-! ### `BUSYWR` (R174) and the interrupt (R176) -/

/-- Settles O18: the guard drops the write, and a register that is not guarded raises no event. -/
theorem busyCoreDropsGuardedWrites : Obligations.BusyCoreDropsGuardedWrites := by
  refine fun s r v rest hs hb => ⟨fun hr => step_of_wrTurn_busy hs hr hb, fun hr => ?_⟩
  exact ⟨_, step_of_wrTurn_regWrite hs, RaisesNone.not_raisedBy (raisesNone_regWrite hr v s.core) .busywr⟩

theorem Event.exists_code_eq {k : Nat} (hk : k < 6) : ∃ e : Event, e.code = k :=
  match k, hk with
  | 0, _ => ⟨.done, rfl⟩
  | 1, _ => ⟨.invkey, rfl⟩
  | 2, _ => ⟨.illcmd, rfl⟩
  | 3, _ => ⟨.seq, rfl⟩
  | 4, _ => ⟨.busywr, rfl⟩
  | 5, _ => ⟨.keyovf, rfl⟩

/-- Settles O26: the bits that `irq` looks at are those of the six events. -/
theorem irqIsTheOrOfEnabledEvents : Obligations.IrqIsTheOrOfEnabledEvents := by
  intro c
  rw [irq_iff_bits]
  constructor
  · rintro ⟨k, hk, hbits⟩
    obtain ⟨e, rfl⟩ := Event.exists_code_eq hk
    exact ⟨e, hbits⟩
  · rintro ⟨e, hbits⟩
    exact ⟨e.code, e.code_lt, hbits⟩

end Sys2Proof.Machine
end

section
/-! Reset (70_reset_and_hazards.md R190, R191). -/

namespace Sys2Proof.Machine

/-- Settles O12: `step_of_reset`, which asks nothing of the core, so a running command is dropped too. -/
theorem resetIsAlwaysEnabled : Obligations.ResetIsAlwaysEnabled := by
  intro s rest hs
  exact step_of_reset hs

end Sys2Proof.Machine
end
